-- ==== Sys2Proof/Word.lean ====
section
/-! DEFINITION. The word types of the device (R7, R8): bytes, words, doublewords, and the wide registers. -/

namespace Sys2Proof

/-- One byte (R8). -/
abbrev Byte := BitVec 8
/-- One 32-bit word (R8). -/
abbrev W32 := BitVec 32
/-- One 64-bit doubleword: a register (R16), an address. -/
abbrev W64 := BitVec 64
/-- A sector of 32 bytes (R8). -/
abbrev Sector := BitVec 256
/-- A vector register, a Sorrel row (R120, R134). -/
abbrev VReg := BitVec 4096
/-- A mask register (R120). -/
abbrev KReg := BitVec 8192
/-- One row of a tile, 256 bytes (R150). -/
abbrev TRow := BitVec 2048

end Sys2Proof
end

