-- ==== Sys2Proof/Syntax.lean ====
section
/-! DEFINITION. The commands of the block: one constructor for each row of the table of operations and
events, with the row's operands, and the records those operands are made of. -/

namespace Sys2Proof

/-! ### Instruction layouts (R84, R85) -/

/-- Layout R of R84: register numbers, mask register and func. -/
structure RF where
  d : BitVec 5
  a : BitVec 5
  b : BitVec 5
  k : BitVec 3
  func : BitVec 8
deriving DecidableEq, Repr

/-- Layout I of R84. The vector form of R144 uses `a` for its T, fmt and op bits. -/
structure IF where
  d : BitVec 5
  a : BitVec 5
  imm : BitVec 16
deriving DecidableEq, Repr

/-- Layout B of R84. -/
structure BF where
  a : BitVec 5
  b : BitVec 5
  off : BitVec 16
deriving DecidableEq, Repr

/-- The 64-bit layout of R85 without its long op. -/
structure LF where
  d : BitVec 5
  a : BitVec 5
  b : BitVec 5
  k : BitVec 3
  md : BitVec 3
  imm : BitVec 32
deriving DecidableEq, Repr

/-- A scalar form with an immediate: the 32-bit layout I, or the long op of the same number (R514). -/
inductive IL where
  | short (f : IF)
  | long (f : LF)
deriving DecidableEq, Repr

/-- A branch: layout B, or its long op (R514). -/
inductive BL where
  | short (f : BF)
  | long (f : LF)
deriving DecidableEq, Repr

/-- jal: layout J, or its long op (R514). -/
inductive JL where
  | short (off : BitVec 26)
  | long (f : LF)
deriving DecidableEq, Repr

/-- A register form with a long twin: an element-wise vector operation with its long op number
(R145), or a tile memory instruction (R175). -/
inductive RL where
  | short (f : RF)
  | long (op : BitVec 8) (f : LF)
deriving DecidableEq, Repr

/-- The loads of R87 that write a g register. -/
inductive LoadOp where
  | ld | lw | lwu | lh | lhu | lb | lbu
deriving DecidableEq, Repr

/-- The stores of R87 that read a g register. -/
inductive StoreOp where
  | sd | sw | sh | sb
deriving DecidableEq, Repr

/-- The branches of R87. -/
inductive BrOp where
  | beq | bne | blt | bge | bltu | bgeu
deriving DecidableEq, Repr

/-- A hardware error that strikes during an instruction or a transfer (R282, R405, R406). `sector` is
the number of a 32-byte sector of local memory, `again` says that the repeat meets the error too. -/
inductive Upset where
  /-- A parity error appears in the register or Sorrel row with this code of R406. -/
  | reg (code : Nat)
  /-- A parity error in a sector held by the core's L1 (R282). -/
  | l1 (sector : Nat) (again : Bool)
  /-- A parity error in a sector held by its home slice (R282). -/
  | slice (sector : Nat) (again : Bool)
  /-- A parity error on the path from the home slice or memory towards the core (R405). -/
  | path (sector : Nat) (again : Bool)
  /-- A parity error in a row of a tile register (R405). -/
  | tile (tile row : Nat)
  /-- Run `run` (0, 1, 2) of an operation on the dot units gives output `out` with a wrong bit (R207). -/
  | dot (run out bit : Nat)
deriving DecidableEq, Repr

/-- An error that a store meets on its way from the store buffer (R405). -/
inductive DrainErr where
  | none
  /-- In the buffer, or on the path to its home slice. -/
  | path
  /-- In the L1 line that it updates. -/
  | l1
deriving DecidableEq, Repr

/-- The context of an instruction: the core that executes it and the errors that strike it. -/
structure Ctx where
  core : Nat
  up : List Upset
deriving DecidableEq, Repr

/-- An error during one run of a tile operation (R204, R405, R407). -/
inductive RunUpset where
  | none
  /-- The block sum of output (row, lane) at a block is wrong by `num` × 2^`exp`. -/
  | sum (row lane block : Nat) (num : Int) (exp : Int)
  /-- A bit of the result at (row, lane) is wrong after the checks' comparison point (step 4, banks). -/
  | bit (row lane bit : Nat)
  /-- A parity error in the operand cache, an accumulator bank or a port (R407). -/
  | parity
  /-- The checker fails a correct result: the row check of a lane where one is named, else a lane check. -/
  | checker (lane : Option Nat)
deriving DecidableEq, Repr

/-- A Pelvar packet (R354, R355). -/
structure Packet where
  kind : BitVec 4
  gen : BitVec 2
  hops : BitVec 4
  rsvd : BitVec 2
  tag : BitVec 20
  dst : BitVec 16
  src : BitVec 16
  part : BitVec 16
  estamp : BitVec 8
  status : BitVec 8
  aux : W32
  addr : W64
  len : W32
  ecrc : W32
  payload : List Byte
deriving DecidableEq, Repr

/-- What a read from a stack finds for a sector (R307, R404). -/
inductive StackFind where
  /-- The bits of the syndrome that errors have turned over: 0 for a sector that comes back as it was written. -/
  | groups (e : BitVec 8)
  /-- As written, after an on-die correction that the stack reports. -/
  | corrected
  /-- An uncorrectable on-die error. -/
  | uncorrectable
deriving DecidableEq, Repr

/-- Which half or halves of an engine a self-test finds faulty (R418, R419). -/
inductive Lanes where
  | none | lower | upper | both
deriving DecidableEq, Repr

/-- The transport of an SPDM request (R454, R456). -/
inductive Transport where
  | mctp | mailbox
deriving DecidableEq, Repr

/-- Where a counter clear is written (R502, R508): a core's PERF_CTL from a g register, or PERF_DCTL. -/
inductive PerfTarget where
  | core (x : Ctx) (a : BitVec 5)
  | device (val : W64)
deriving DecidableEq, Repr

/-- The kinds of function reset (R377). -/
inductive FnReset where
  | flr | hotReset | linkLoss
deriving DecidableEq, Repr

/-- The internal links (R408, R429). -/
inductive IntLink where
  | dieToDie | control0 | control1
deriving DecidableEq, Repr

/-- The causes of a loss of power (R485). -/
inductive PowerCause where
  | pwrgood | vddCmp0 | vddCmp1 | vddCtl | vddio
deriving DecidableEq, Repr

/-- A PLDM component as RequestUpdate and its successors name it (R451). -/
structure Component where
  classification : Nat
  identifier : Nat
deriving DecidableEq, Repr

/-- Registers of the function's PCIe configuration space, by name (R373, R374, R377). -/
inductive CfgReg where
  | vendor | device | revision | classCode | capabilities
  /-- The Command register. -/
  | command
  | bar0 | bar2
  /-- n of the size of BAR2, 2^n bytes, as Resizable BAR holds it. -/
  | barSize
  | msixCount
  /-- Advisory Non-Fatal in the status register of Advanced Error Reporting. -/
  | aer
deriving DecidableEq, Repr

/-- Where the host or firmware writes or reads a register: a BAR0 offset, or configuration space. -/
inductive HostReg where
  | bar (off : Nat)
  | cfg (r : CfgReg)
deriving DecidableEq, Repr

/-- Bytes 240 to 247 of a flit (R353): its SEQ, the last good SEQ received, NAK, and the credits returned. -/
structure FlitHead where
  seq : Nat
  ack : Nat
  nak : Bool
  credits : Nat
deriving DecidableEq, Repr

/-- The commands. Each constructor is one row of the table, in the table's order. -/
inductive Instr where
  /-- R11: a host or firmware write of 4 or 8 bytes at a BAR0 offset, or of a register in configuration space, where the
  size is that register's own. -/
  | registerWrite (reg : HostReg) (size : Nat) (val : W64)
  /-- R14: a read of a register at a BAR0 offset or in configuration space. `ev` holds, in the places of the register's
  RC fields, the events that arrive in the same cycle. -/
  | rcRead (reg : HostReg) (size : Nat) (ev : W64)
  | integerOps (x : Ctx) (f : RF)
  | addi (x : Ctx) (f : IL)
  | andi (x : Ctx) (f : IL)
  | ori (x : Ctx) (f : IL)
  | xori (x : Ctx) (f : IL)
  | slti (x : Ctx) (f : IL)
  | lui (x : Ctx) (f : IF)
  | lhiL (x : Ctx) (f : LF)
  | scalarLoad (x : Ctx) (op : LoadOp) (f : IL)
  | scalarStore (x : Ctx) (op : StoreOp) (f : IL)
  | flw (x : Ctx) (f : IL)
  | fld (x : Ctx) (f : IL)
  | fsd (x : Ctx) (f : IL)
  | fsw (x : Ctx) (f : IL)
  | fll (x : Ctx) (f : IL)
  | fsl (x : Ctx) (f : IL)
  | branch (x : Ctx) (op : BrOp) (f : BL)
  | jal (x : Ctx) (f : JL)
  | jalr (x : Ctx) (f : IL)
  | fpOps (x : Ctx) (f : RF)
  | cregRd (x : Ctx) (f : IF)
  | cregWr (x : Ctx) (f : IF)
  | trapEnv (x : Ctx)
  | trapBp (x : Ctx)
  | rtx (x : Ctx)
  | fence (x : Ctx)
  | fenceE (x : Ctx)
  | atomics (x : Ctx) (f : RF)
  /-- R86: an instruction that decodes to nothing, with its first and second words. -/
  | illegalInstruction (x : Ctx) (w0 w1 : W32)
  /-- R103, R397: firmware takes a core's wedge message. -/
  | wedged (core : Nat)
  | asyncDelivery (core : Nat)
  /-- R257: entry `idx` of the core's store buffer is performed or sent, with the error that it meets. -/
  | storeDrain (core idx : Nat) (err : DrainErr)
  /-- R112: entry `idx` of the core's store buffer meets a local bus error. -/
  | lateStoreError (core idx : Nat)
  /-- R54: creg.wr of CORE_FPCSR from g[a] with FSET bits. -/
  | fset (x : Ctx) (a : BitVec 5)
  | lseClr (x : Ctx) (a : BitVec 5)
  | sorrelClr (x : Ctx) (a : BitVec 5)
  | ptbWrite (x : Ctx) (a : BitVec 5)
  | l1CtrlWrite (x : Ctx) (a : BitVec 5)
  | missModeSwitch (core : Nat)
  | floatingPointElementWise (x : Ctx) (f : RL)
  | vfun (x : Ctx) (f : RL)
  | integerElementWise (x : Ctx) (f : RL)
  | vcvt (x : Ctx) (f : RF)
  | vcvtSr (x : Ctx) (f : RF)
  | vamaxMx (x : Ctx) (f : RF)
  | vamaxT (x : Ctx) (f : RF)
  | vquant (x : Ctx) (f : RF)
  | vscale (x : Ctx) (f : RF)
  | floatingPointImmediate (x : Ctx) (f : IF)
  | integerImmediate (x : Ctx) (f : IF)
  | vld (x : Ctx) (f : RF)
  | vldff (x : Ctx) (f : RF)
  | vst (x : Ctx) (f : RF)
  | vgat (x : Ctx) (f : RF)
  | vsct (x : Ctx) (f : RF)
  | vsget (x : Ctx) (f : RF)
  | vsput (x : Ctx) (f : RF)
  | vsfill (x : Ctx) (f : RF)
  | vtget (x : Ctx) (f : RF)
  | vtput (x : Ctx) (f : RF)
  | vstrip (x : Ctx) (f : RF)
  | vredsum (x : Ctx) (f : RF)
  | vredmax (x : Ctx) (f : RF)
  | vredmin (x : Ctx) (f : RF)
  | vdot (x : Ctx) (f : RF)
  | vsmax (x : Ctx) (f : RF)
  | kand (x : Ctx) (f : RF)
  | kor (x : Ctx) (f : RF)
  | kxor (x : Ctx) (f : RF)
  | knot (x : Ctx) (f : RF)
  | kpop (x : Ctx) (f : RF)
  | kld (x : Ctx) (f : RF)
  | kst (x : Ctx) (f : RF)
  | vbcastf (x : Ctx) (f : RF)
  | vext (x : Ctx) (f : RF)
  | tload (x : Ctx) (f : RL)
  | tloadLf48 (x : Ctx) (f : RL)
  | tstore (x : Ctx) (f : RL)
  | tstoreLf48 (x : Ctx) (f : RL)
  | trel (x : Ctx) (f : RF)
  | trelM (x : Ctx) (f : RF)
  | tcfg (x : Ctx) (f : RF)
  /-- R110: the oldest unsettled tile operation of the core settles. -/
  | tileOpSettle (core : Nat)
  | tmma (x : Ctx) (f : RF)
  | tmmaX (x : Ctx) (f : LF)
  /-- R199, R200: `fi` is the low nibble of the long op. -/
  | tmv (x : Ctx) (fi : BitVec 4) (f : LF)
  | tmvMx (x : Ctx) (fi : BitVec 4) (f : LF)
  /-- R192: the pool of the core's cluster places the core's oldest waiting tmma. -/
  | tmmaStart (x : Ctx)
  /-- R188: the run in a half (0 lower or whole, 1 upper) of an engine ends. -/
  | engineRunEnd (engine half : Nat) (up : RunUpset)
  /-- R208: the longest-waiting replay or third run of the cluster starts. -/
  | replayStart (cluster : Nat)
  | verdictRecord
  | engineSelftestEnd (engine : Nat) (bad : Lanes)
  | ttakeRead (x : Ctx) (d : BitVec 5)
  | taskTake (core : Nat)
  | tdoneWrite (x : Ctx) (a : BitVec 5)
  | taskEnd (core : Nat)
  | remoteStoresSent (version : Nat)
  | cacheDead (x : Ctx) (f : RF)
  | cachePf (x : Ctx) (f : RF)
  | cachePfLlc (x : Ctx) (f : RF)
  | cacheIsync (x : Ctx) (f : RF)
  | tlbInv (x : Ctx) (f : RF)
  | tlbInva (x : Ctx) (f : RF)
  /-- R256, R272: the sectors that a core's miss waits for arrive. -/
  | lineFill (core line : Nat) (up : List Upset)
  /-- R284: a write of `val` to LLC_SWn_CMD with GO 1 and the row's OP. -/
  | clean (ch : Nat) (val : W64)
  | inval (ch : Nat) (val : W64)
  | zero (ch : Nat) (val : W64)
  | unpin (ch : Nat) (val : W64)
  | prefetch (ch : Nat) (val : W64)
  | abort (ch : Nat) (val : W64)
  | swathLine (ch line : Nat)
  | swathComplete (ch : Nat)
  /-- R307: a sector returns from its stack; `second` is what the reread finds. -/
  | stackRead (sector : Nat) (first second : StackFind)
  | stackWrite (line : Nat) (bad : Bool)
  /-- R308: the copy of a row ends: the spares that failed during it, and the columns that failed both reads. -/
  | remapComplete (stack pch bank failed : Nat) (bad : List Nat)
  | refreshDue (stack pch bank : Nat)
  | refreshWindowEnd
  /-- R304: a sample of a stack's temperature, in °C. -/
  | stackTempSample (stack temp : Nat)
  | zoneStepTimeout (stack : Nat)
  | overwriteComplete
  | epochIn
  | timeArrival
  | periodReached
  | tolExpiry
  | slotFire (slot : Nat)
  | timerefLost
  | pllLock
  | runStart (val : W64)
  | runStop (val : W64)
  | slotArm (slot : Nat) (val : W64)
  | rd (port : Nat) (p : Packet)
  | rdr (port : Nat) (p : Packet)
  | wr (port : Nat) (p : Packet)
  | wra (port : Nat) (p : Packet)
  | atm (port : Nat) (p : Packet)
  | atr (port : Nat) (p : Packet)
  | col (port : Nat) (p : Packet)
  | time (port : Nat) (p : Packet) (inside : Nat)
  | packetForward (port : Nat) (p : Packet)
  | trackerTimeout (tag : Nat)
  | filterExpiry (src tag : Nat)
  /-- R348, R353: a flit arrives, good or bad. -/
  | flit (port : Nat) (head : FlitHead) (good : Bool)
  | linkGiveUp (port : Nat)
  | portUp (port : Nat) (peer : BitVec 16)
  | retrain (port : Nat) (val : W64)
  | pelEnable (val : W64)
  | pelDisable (val : W64)
  | pelCacheDisable (val : W64)
  | collectiveRead (phase : Nat)
  | collectiveComplete (phase : Nat)
  | collectiveDeadline (phase : Nat)
  | mailboxPost (mb : Nat) (val : W64)
  | mailboxAccept
  | mailboxFree (mb : Nat) (val : W64)
  | commandComplete (mb : Nat)
  | attach (mb : Nat)
  | submit (mb : Nat)
  | sheafAdd (mb : Nat)
  | sheafSet (mb : Nat)
  | sheafRead (mb : Nat)
  | verdict (mb : Nat)
  | stepWrite (mb : Nat)
  | coreMsg (mb : Nat)
  | fabricCfg (mb : Nat)
  | memAffinity (mb : Nat)
  | retiredList (mb : Nat)
  | faultRead (mb : Nat)
  | selftest (mb : Nat)
  /-- R390: the self-test of a mailbox's SELFTEST command, or an automatic one (R416), ends: the faults
  found in the core's eight engines or in the one engine named, and whether the core failed. -/
  | selftestComplete (isCore : Bool) (unit : Nat) (bad : List Lanes) (coreFails : Bool)
  | coreReset (mb : Nat)
  | perCoreReset (core : Nat)
  /-- R119: firmware releases the core at the address it supplies. -/
  | coreRelease (core : Nat) (entry : W64)
  /-- R391: the retraining ends; `failed` is the mask of stacks that failed. -/
  | memRetrain (mb : Nat) (failed : W32)
  | calibrate (mb : Nat) (failed : W32) (measured : List Byte)
  | calRead (mb : Nat)
  | calWrite (mb : Nat)
  | deviceReset (mb : Nat)
  | lcSet (mb : Nat)
  | spdm (mb : Nat)
  | task
  | barrier
  | barrierDeadline
  | waitEpoch
  | specBegin
  | specEnd
  | fenceRecord
  | copy
  | fill
  | mark
  | copyComplete (id : Nat)
  | checkpointCopy (idx : Nat)
  | checkpointComplete (idx : Nat)
  | msixHoldoff (vector : Nat)
  | bar2Read (off size : Nat)
  | bar2Write (off : Nat) (bytes : List Byte) (ep : Bool)
  | functionReset (kind : FnReset)
  | controlProcessorStall (processor : Nat)
  | linkFailure (link : IntLink)
  | getPdr (record : Nat)
  | getSensorReading (sensor : Nat)
  | setEventReceiver (async : Bool)
  | platformEventMessage
  | pollForPlatformEventMessage (ack : Bool)
  | pldmType0 (command : Nat)
  | requestUpdate (c : Component)
  | passComponentTable (c : Component)
  | updateComponent (c : Component) (size : Nat)
  | requestFirmwareData (off : Nat) (bytes : List Byte)
  | transferComplete
  | verifyComplete
  | applyComplete
  | activateFirmware
  | cancelUpdate
  | getStatus
  | getVersion (t : Transport)
  | getCapabilities (t : Transport)
  | negotiateAlgorithms (t : Transport)
  | getDigests (t : Transport)
  | getCertificate (t : Transport) (slot off len : Nat)
  | challenge (t : Transport) (slot : Nat) (nonce : List Byte)
  | getMeasurements (t : Transport) (idx : Nat) (signed : Bool) (nonce : List Byte)
  | setdasa (stat dyn : BitVec 7)
  | entdaa (dyn : BitVec 7)
  | coldReset
  | warmReset
  | firmwareStart
  | bootReady
  | recWrite (flashError : Bool)
  | recCommit (flashError : Bool)
  | powerLoss (why : PowerCause)
  | thermalTrip
  /-- R490: the readings of a cluster's four core sensors, in 1/64 °C before calibration. -/
  | junctionSample (cluster : Nat) (t0 t1 t2 t3 : Int)
  /-- R493: a sample of package power in W. -/
  | governorSample (watts : Nat)
  | hold
  | bypass
  | idcode
  | samplePreload (preload : List Bool)
  | extest
  | highz
  | clamp
  | perfClr (t : PerfTarget)
  | perstDeassertion
  | deferredImageBoot
  | epochOutRelease
  | inBandInterruptEnable (on : Bool)
deriving DecidableEq, Repr

end Sys2Proof
end

