-- ==== Sys2Proof/Decode.lean ====
section
/-! DEFINITION. From bits to commands: the table gives no row bits, so `decodeTableWord` spells none; the words of an
instruction, by the layouts and the opcode tables (R83 to R87, R90, R138 to R147, R174, R175, R185, R186, R200, R278,
R514). -/

namespace Sys2Proof

/-- The command that a table word spells: no row of the table gives bits. -/
def decodeTableWord (_nbits _w : Nat) : Option Instr := none

/-! ### Layouts (R84, R85) -/

/-- Bits [31:26]. -/
def majorOf (w : W32) : Nat := (w.extractLsb' 26 6).toNat

/-- The R layout. -/
def fieldsR (w : W32) : RF :=
  ⟨w.extractLsb' 21 5, w.extractLsb' 16 5, w.extractLsb' 11 5, w.extractLsb' 8 3, w.extractLsb' 0 8⟩

/-- The I layout. -/
def fieldsI (w : W32) : IF := ⟨w.extractLsb' 21 5, w.extractLsb' 16 5, w.extractLsb' 0 16⟩

/-- The B layout. -/
def fieldsB (w : W32) : BF := ⟨w.extractLsb' 21 5, w.extractLsb' 16 5, w.extractLsb' 0 16⟩

/-- The J layout. -/
def fieldsJ (w : W32) : BitVec 26 := w.extractLsb' 0 26

/-- The 64-bit layout without op. -/
def fieldsL (w0 w1 : W32) : LF :=
  ⟨w0.extractLsb' 16 5, w0.extractLsb' 11 5, w0.extractLsb' 6 5, w0.extractLsb' 3 3, w0.extractLsb' 0 3, w1⟩

/-- Long op, bits [28:21]. -/
def longOp (w : W32) : BitVec 8 := w.extractLsb' 21 8

/-- An instruction is 64 bits long when bits [31:29] are 0b111 (R83). -/
def isLong (w : W32) : Bool := w.extractLsb' 29 3 == 7

/-! ### Scalar majors and long ops (R87, R514) -/

/-- The majors 0x01 to 0x17 and 0x1F of layout I, or the long ops of the same number. -/
def decodeIL (x : Ctx) (n : Nat) (f : IL) : Option Instr :=
  if n = 0x01 then some (.addi x f)
  else if n = 0x02 then some (.andi x f)
  else if n = 0x03 then some (.ori x f)
  else if n = 0x04 then some (.xori x f)
  else if n = 0x05 then some (.slti x f)
  else if n = 0x07 then some (.flw x f)
  else if n = 0x08 then some (.scalarLoad x .ld f)
  else if n = 0x09 then some (.scalarLoad x .lw f)
  else if n = 0x0A then some (.scalarLoad x .lwu f)
  else if n = 0x0B then some (.scalarLoad x .lh f)
  else if n = 0x0C then some (.scalarLoad x .lhu f)
  else if n = 0x0D then some (.scalarLoad x .lb f)
  else if n = 0x0E then some (.scalarLoad x .lbu f)
  else if n = 0x0F then some (.fld x f)
  else if n = 0x10 then some (.scalarStore x .sd f)
  else if n = 0x11 then some (.scalarStore x .sw f)
  else if n = 0x12 then some (.scalarStore x .sh f)
  else if n = 0x13 then some (.scalarStore x .sb f)
  else if n = 0x14 then some (.fsd x f)
  else if n = 0x15 then some (.fsw x f)
  else if n = 0x16 then some (.fll x f)
  else if n = 0x17 then some (.fsl x f)
  else if n = 0x1F then some (.jalr x f)
  else none

/-- The branches. -/
def decodeBL (x : Ctx) (n : Nat) (f : BL) : Option Instr :=
  if n = 0x18 then some (.branch x .beq f)
  else if n = 0x19 then some (.branch x .bne f)
  else if n = 0x1A then some (.branch x .blt f)
  else if n = 0x1B then some (.branch x .bge f)
  else if n = 0x1C then some (.branch x .bltu f)
  else if n = 0x1D then some (.branch x .bgeu f)
  else none

/-- System ops: d, a, b and k are zero (R90). -/
def decodeSystem (x : Ctx) (f : RF) : Option Instr :=
  if f.d ≠ 0 ∨ f.a ≠ 0 ∨ f.b ≠ 0 ∨ f.k ≠ 0 then none
  else if f.func = 0x00 then some (.trapEnv x)
  else if f.func = 0x01 then some (.trapBp x)
  else if f.func = 0x02 then some (.rtx x)
  else if f.func = 0x03 then some (.fence x)
  else if f.func = 0x04 then some (.fenceE x)
  else none

/-! ### Vector majors (R138 to R147) -/

def funcOp (f : RF) : Nat := f.func.toNat / 16

/-- Major 0x2A (R142). -/
def decodeConv (x : Ctx) (f : RF) : Option Instr :=
  if funcOp f = 0 then some (.vcvt x f)
  else if funcOp f = 1 then some (.vcvtSr x f)
  else if funcOp f = 2 then some (.vamaxMx x f)
  else if funcOp f = 3 then some (.vamaxT x f)
  else none

/-- Major 0x2B (R143). -/
def decodeQuant (x : Ctx) (f : RF) : Option Instr :=
  if funcOp f < 8 then some (.vquant x f) else if funcOp f < 10 then some (.vscale x f) else none

/-- Major 0x2E (R146). -/
def decodeVmem (x : Ctx) (f : RF) : Option Instr :=
  let n := funcOp f
  if n = 0 then some (.vld x f)
  else if n = 1 then some (.vldff x f)
  else if n = 2 then some (.vst x f)
  else if n = 3 then some (.vgat x f)
  else if n = 4 then some (.vsct x f)
  else if n = 5 then some (.vsget x f)
  else if n = 6 then some (.vsput x f)
  else if n = 7 then some (.vsfill x f)
  else if n = 8 then some (.vtget x f)
  else if n = 9 then some (.vtput x f)
  else none

/-- Major 0x2F (R147). -/
def decodeVmisc (x : Ctx) (f : RF) : Option Instr :=
  let n := funcOp f
  if n = 0 then some (.vstrip x f)
  else if n = 1 then some (.vredsum x f)
  else if n = 2 then some (.vredmax x f)
  else if n = 3 then some (.vredmin x f)
  else if n = 4 ∨ n = 5 then some (.vdot x f)
  else if n = 6 then some (.vsmax x f)
  else if n = 7 then some (.kand x f)
  else if n = 8 then some (.kor x f)
  else if n = 9 then some (.kxor x f)
  else if n = 10 then some (.knot x f)
  else if n = 11 then some (.kpop x f)
  else if n = 12 then some (.kld x f)
  else if n = 13 then some (.kst x f)
  else if n = 14 then some (.vbcastf x f)
  else some (.vext x f)

/-! ### Tile and cache majors (R174, R185, R278) -/

def decodeTile (x : Ctx) (f : RF) : Option Instr :=
  let n := f.func.toNat
  if n = 0 then some (.tload x (.short f))
  else if n = 1 then some (.tloadLf48 x (.short f))
  else if n = 2 then some (.tstore x (.short f))
  else if n = 3 then some (.tstoreLf48 x (.short f))
  else if n = 4 then some (.trel x f)
  else if n = 5 then some (.trelM x f)
  else if n = 6 then some (.tcfg x f)
  else none

def decodeCache (x : Ctx) (f : RF) : Option Instr :=
  let n := f.func.toNat
  if n = 0 then some (.cacheDead x f)
  else if n = 1 then some (.cachePf x f)
  else if n = 2 then some (.cachePfLlc x f)
  else if n = 3 then some (.cacheIsync x f)
  else if n = 4 then some (.tlbInv x f)
  else if n = 5 then some (.tlbInva x f)
  else none

/-! ### One instruction -/

/-- A 32-bit instruction. -/
def decodeShort (x : Ctx) (w : W32) : Option Instr :=
  let m := majorOf w
  let r := fieldsR w
  if m = 0x00 then some (.integerOps x r)
  else if m = 0x06 then some (.lui x (fieldsI w))
  else if m < 0x18 ∨ m = 0x1F then decodeIL x m (.short (fieldsI w))
  else if m < 0x1E then decodeBL x m (.short (fieldsB w))
  else if m = 0x1E then some (.jal x (.short (fieldsJ w)))
  else if m = 0x20 then some (.fpOps x r)
  else if m = 0x21 then decodeSystem x r
  else if m = 0x22 then some (.cregRd x (fieldsI w))
  else if m = 0x23 then some (.cregWr x (fieldsI w))
  else if m = 0x24 then some (.atomics x r)
  else if m = 0x28 then some (if funcOp r = 14 then .vfun x (.short r) else .floatingPointElementWise x (.short r))
  else if m = 0x29 then some (.integerElementWise x (.short r))
  else if m = 0x2A then decodeConv x r
  else if m = 0x2B then decodeQuant x r
  else if m = 0x2C then some (.floatingPointImmediate x (fieldsI w))
  else if m = 0x2D then some (.integerImmediate x (fieldsI w))
  else if m = 0x2E then decodeVmem x r
  else if m = 0x2F then decodeVmisc x r
  else if m = 0x30 then decodeTile x r
  else if m = 0x31 then some (.tmma x r)
  else if m = 0x32 then decodeCache x r
  else none

/-- A 64-bit instruction (R85, R145, R175, R186, R200, R514). -/
def decodeLong (x : Ctx) (w0 w1 : W32) : Option Instr :=
  let o := longOp w0
  let n := o.toNat
  let f := fieldsL w0 w1
  if n = 0x06 then some (.lhiL x f)
  else if n < 0x18 ∨ n = 0x1F then decodeIL x n (.long f)
  else if n < 0x1E then decodeBL x n (.long f)
  else if n = 0x1E then some (.jal x (.long f))
  else if n < 0x40 then none
  else if n < 0x80 then some (if n / 4 % 16 = 14 then .vfun x (.long o f) else .floatingPointElementWise x (.long o f))
  else if n < 0xC0 then some (.integerElementWise x (.long o f))
  else if n = 0xC0 then some (.tload x (.long o f))
  else if n = 0xC1 then some (.tloadLf48 x (.long o f))
  else if n = 0xC2 then some (.tstore x (.long o f))
  else if n = 0xC3 then some (.tstoreLf48 x (.long o f))
  else if n = 0xC8 then some (.tmmaX x f)
  else if n < 0xD0 then none
  else if n < 0xDF ∧ n ≠ 0xDA ∧ n ≠ 0xDB then some (.tmv x (o.extractLsb' 0 4) f)
  else if 0xE5 ≤ n ∧ n ≤ 0xE9 then some (.tmvMx x (o.extractLsb' 0 4) f)
  else none

/-- The instruction of two words as they follow one another in memory; one that decodes to nothing raises cause 0x02
(R86). -/
def decodeInsn (x : Ctx) (w0 w1 : W32) : Instr :=
  match (if isLong w0 then decodeLong x w0 w1 else decodeShort x w0) with
  | some i => i
  | none => .illegalInstruction x w0 w1

/-! ### Words from fields -/

/-- First word of layout R. -/
def encR (maj : Nat) (f : RF) : W32 :=
  BitVec.ofNat 32 (maj * 2 ^ 26 + f.d.toNat * 2 ^ 21 + f.a.toNat * 2 ^ 16 + f.b.toNat * 2 ^ 11 + f.k.toNat * 256 + f.func.toNat)

/-- Layout I. -/
def encI (maj : Nat) (f : IF) : W32 :=
  BitVec.ofNat 32 (maj * 2 ^ 26 + f.d.toNat * 2 ^ 21 + f.a.toNat * 2 ^ 16 + f.imm.toNat)

/-- Layout B. -/
def encB (maj : Nat) (f : BF) : W32 :=
  BitVec.ofNat 32 (maj * 2 ^ 26 + f.a.toNat * 2 ^ 21 + f.b.toNat * 2 ^ 16 + f.off.toNat)

/-- Layout J. -/
def encJ (maj : Nat) (off : BitVec 26) : W32 := BitVec.ofNat 32 (maj * 2 ^ 26 + off.toNat)

/-- First word of the 64-bit layout with a long op (R85). -/
def encL (op : Nat) (f : LF) : W32 :=
  BitVec.ofNat 32 (7 * 2 ^ 29 + op * 2 ^ 21 + f.d.toNat * 2 ^ 16 + f.a.toNat * 2048 + f.b.toNat * 64 + f.k.toNat * 8 + f.md.toNat)

/-- Layout I, or the long op of the same number. -/
def encIL (n : Nat) : IL → W32 × W32
  | .short f => (encI n f, 0)
  | .long f => (encL n f, f.imm)

/-- Layout B, or its long op. -/
def encBL (n : Nat) : BL → W32 × W32
  | .short f => (encB n f, 0)
  | .long f => (encL n f, f.imm)

/-- Layout J, or its long op. -/
def encJL : JL → W32 × W32
  | .short off => (encJ 0x1E off, 0)
  | .long f => (encL 0x1E f, f.imm)

/-- Layout R, or a long op. -/
def encRL (maj : Nat) : RL → W32 × W32
  | .short f => (encR maj f, 0)
  | .long op f => (encL op.toNat f, f.imm)

/-- Numbers of the loads, stores and branches (R87). -/
def loadNumber : LoadOp → Nat
  | .ld => 0x08
  | .lw => 0x09
  | .lwu => 0x0A
  | .lh => 0x0B
  | .lhu => 0x0C
  | .lb => 0x0D
  | .lbu => 0x0E

def storeNumber : StoreOp → Nat
  | .sd => 0x10
  | .sw => 0x11
  | .sh => 0x12
  | .sb => 0x13

def branchNumber : BrOp → Nat
  | .beq => 0x18
  | .bne => 0x19
  | .blt => 0x1A
  | .bge => 0x1B
  | .bltu => 0x1C
  | .bgeu => 0x1D

/-- A system op (R90). -/
def encSystem (func : BitVec 8) : W32 × W32 := (encR 0x21 ⟨0, 0, 0, 0, func⟩, 0)

/-- The words of an instruction, the second 0 in a 32-bit one; none for a command that is no instruction, or that
names a case of creg.rd or creg.wr. -/
def encodeInsn : Instr → Option (W32 × W32)
  | .integerOps _ f => some (encR 0x00 f, 0)
  | .addi _ f => some (encIL 0x01 f)
  | .andi _ f => some (encIL 0x02 f)
  | .ori _ f => some (encIL 0x03 f)
  | .xori _ f => some (encIL 0x04 f)
  | .slti _ f => some (encIL 0x05 f)
  | .lui _ f => some (encI 0x06 f, 0)
  | .lhiL _ f => some (encL 0x06 f, f.imm)
  | .scalarLoad _ op f => some (encIL (loadNumber op) f)
  | .scalarStore _ op f => some (encIL (storeNumber op) f)
  | .flw _ f => some (encIL 0x07 f)
  | .fld _ f => some (encIL 0x0F f)
  | .fsd _ f => some (encIL 0x14 f)
  | .fsw _ f => some (encIL 0x15 f)
  | .fll _ f => some (encIL 0x16 f)
  | .fsl _ f => some (encIL 0x17 f)
  | .branch _ op f => some (encBL (branchNumber op) f)
  | .jal _ f => some (encJL f)
  | .jalr _ f => some (encIL 0x1F f)
  | .fpOps _ f => some (encR 0x20 f, 0)
  | .cregRd _ f => some (encI 0x22 f, 0)
  | .cregWr _ f => some (encI 0x23 f, 0)
  | .trapEnv _ => some (encSystem 0x00)
  | .trapBp _ => some (encSystem 0x01)
  | .rtx _ => some (encSystem 0x02)
  | .fence _ => some (encSystem 0x03)
  | .fenceE _ => some (encSystem 0x04)
  | .atomics _ f => some (encR 0x24 f, 0)
  | .illegalInstruction _ w0 w1 => some (w0, w1)
  | .floatingPointElementWise _ f => some (encRL 0x28 f)
  | .vfun _ f => some (encRL 0x28 f)
  | .integerElementWise _ f => some (encRL 0x29 f)
  | .vcvt _ f => some (encR 0x2A f, 0)
  | .vcvtSr _ f => some (encR 0x2A f, 0)
  | .vamaxMx _ f => some (encR 0x2A f, 0)
  | .vamaxT _ f => some (encR 0x2A f, 0)
  | .vquant _ f => some (encR 0x2B f, 0)
  | .vscale _ f => some (encR 0x2B f, 0)
  | .floatingPointImmediate _ f => some (encI 0x2C f, 0)
  | .integerImmediate _ f => some (encI 0x2D f, 0)
  | .vld _ f => some (encR 0x2E f, 0)
  | .vldff _ f => some (encR 0x2E f, 0)
  | .vst _ f => some (encR 0x2E f, 0)
  | .vgat _ f => some (encR 0x2E f, 0)
  | .vsct _ f => some (encR 0x2E f, 0)
  | .vsget _ f => some (encR 0x2E f, 0)
  | .vsput _ f => some (encR 0x2E f, 0)
  | .vsfill _ f => some (encR 0x2E f, 0)
  | .vtget _ f => some (encR 0x2E f, 0)
  | .vtput _ f => some (encR 0x2E f, 0)
  | .vstrip _ f => some (encR 0x2F f, 0)
  | .vredsum _ f => some (encR 0x2F f, 0)
  | .vredmax _ f => some (encR 0x2F f, 0)
  | .vredmin _ f => some (encR 0x2F f, 0)
  | .vdot _ f => some (encR 0x2F f, 0)
  | .vsmax _ f => some (encR 0x2F f, 0)
  | .kand _ f => some (encR 0x2F f, 0)
  | .kor _ f => some (encR 0x2F f, 0)
  | .kxor _ f => some (encR 0x2F f, 0)
  | .knot _ f => some (encR 0x2F f, 0)
  | .kpop _ f => some (encR 0x2F f, 0)
  | .kld _ f => some (encR 0x2F f, 0)
  | .kst _ f => some (encR 0x2F f, 0)
  | .vbcastf _ f => some (encR 0x2F f, 0)
  | .vext _ f => some (encR 0x2F f, 0)
  | .tload _ f => some (encRL 0x30 f)
  | .tloadLf48 _ f => some (encRL 0x30 f)
  | .tstore _ f => some (encRL 0x30 f)
  | .tstoreLf48 _ f => some (encRL 0x30 f)
  | .trel _ f => some (encR 0x30 f, 0)
  | .trelM _ f => some (encR 0x30 f, 0)
  | .tcfg _ f => some (encR 0x30 f, 0)
  | .tmma _ f => some (encR 0x31 f, 0)
  | .tmmaX _ f => some (encL 0xC8 f, f.imm)
  | .tmv _ fi f => some (encL (0xD0 + fi.toNat) f, f.imm)
  | .tmvMx _ fi f => some (encL (0xE0 + fi.toNat) f, f.imm)
  | .cacheDead _ f => some (encR 0x32 f, 0)
  | .cachePf _ f => some (encR 0x32 f, 0)
  | .cachePfLlc _ f => some (encR 0x32 f, 0)
  | .cacheIsync _ f => some (encR 0x32 f, 0)
  | .tlbInv _ f => some (encR 0x32 f, 0)
  | .tlbInva _ f => some (encR 0x32 f, 0)
  | .registerWrite _ _ _ => none
  | .rcRead _ _ _ => none
  | .wedged _ => none
  | .asyncDelivery _ => none
  | .storeDrain _ _ _ => none
  | .lateStoreError _ _ => none
  | .fset _ _ => none
  | .lseClr _ _ => none
  | .sorrelClr _ _ => none
  | .ptbWrite _ _ => none
  | .l1CtrlWrite _ _ => none
  | .missModeSwitch _ => none
  | .tileOpSettle _ => none
  | .tmmaStart _ => none
  | .engineRunEnd _ _ _ => none
  | .replayStart _ => none
  | .verdictRecord => none
  | .engineSelftestEnd _ _ => none
  | .ttakeRead _ _ => none
  | .taskTake _ => none
  | .tdoneWrite _ _ => none
  | .taskEnd _ => none
  | .remoteStoresSent _ => none
  | .lineFill _ _ _ => none
  | .clean _ _ => none
  | .inval _ _ => none
  | .zero _ _ => none
  | .unpin _ _ => none
  | .prefetch _ _ => none
  | .abort _ _ => none
  | .swathLine _ _ => none
  | .swathComplete _ => none
  | .stackRead _ _ _ => none
  | .stackWrite _ _ => none
  | .remapComplete _ _ _ _ _ => none
  | .refreshDue _ _ _ => none
  | .refreshWindowEnd => none
  | .stackTempSample _ _ => none
  | .zoneStepTimeout _ => none
  | .overwriteComplete => none
  | .epochIn => none
  | .timeArrival => none
  | .periodReached => none
  | .tolExpiry => none
  | .slotFire _ => none
  | .timerefLost => none
  | .pllLock => none
  | .runStart _ => none
  | .runStop _ => none
  | .slotArm _ _ => none
  | .rd _ _ => none
  | .rdr _ _ => none
  | .wr _ _ => none
  | .wra _ _ => none
  | .atm _ _ => none
  | .atr _ _ => none
  | .col _ _ => none
  | .time _ _ _ => none
  | .packetForward _ _ => none
  | .trackerTimeout _ => none
  | .filterExpiry _ _ => none
  | .flit _ _ _ => none
  | .linkGiveUp _ => none
  | .portUp _ _ => none
  | .retrain _ _ => none
  | .pelEnable _ => none
  | .pelDisable _ => none
  | .pelCacheDisable _ => none
  | .collectiveRead _ => none
  | .collectiveComplete _ => none
  | .collectiveDeadline _ => none
  | .mailboxPost _ _ => none
  | .mailboxAccept => none
  | .mailboxFree _ _ => none
  | .commandComplete _ => none
  | .attach _ => none
  | .submit _ => none
  | .sheafAdd _ => none
  | .sheafSet _ => none
  | .sheafRead _ => none
  | .verdict _ => none
  | .stepWrite _ => none
  | .coreMsg _ => none
  | .fabricCfg _ => none
  | .memAffinity _ => none
  | .retiredList _ => none
  | .faultRead _ => none
  | .selftest _ => none
  | .selftestComplete _ _ _ _ => none
  | .coreReset _ => none
  | .perCoreReset _ => none
  | .coreRelease _ _ => none
  | .memRetrain _ _ => none
  | .calibrate _ _ _ => none
  | .calRead _ => none
  | .calWrite _ => none
  | .deviceReset _ => none
  | .lcSet _ => none
  | .spdm _ => none
  | .task => none
  | .barrier => none
  | .barrierDeadline => none
  | .waitEpoch => none
  | .specBegin => none
  | .specEnd => none
  | .fenceRecord => none
  | .copy => none
  | .fill => none
  | .mark => none
  | .copyComplete _ => none
  | .checkpointCopy _ => none
  | .checkpointComplete _ => none
  | .msixHoldoff _ => none
  | .bar2Read _ _ => none
  | .bar2Write _ _ _ => none
  | .functionReset _ => none
  | .controlProcessorStall _ => none
  | .linkFailure _ => none
  | .getPdr _ => none
  | .getSensorReading _ => none
  | .setEventReceiver _ => none
  | .platformEventMessage => none
  | .pollForPlatformEventMessage _ => none
  | .pldmType0 _ => none
  | .requestUpdate _ => none
  | .passComponentTable _ => none
  | .updateComponent _ _ => none
  | .requestFirmwareData _ _ => none
  | .transferComplete => none
  | .verifyComplete => none
  | .applyComplete => none
  | .activateFirmware => none
  | .cancelUpdate => none
  | .getStatus => none
  | .getVersion _ => none
  | .getCapabilities _ => none
  | .negotiateAlgorithms _ => none
  | .getDigests _ => none
  | .getCertificate _ _ _ _ => none
  | .challenge _ _ _ => none
  | .getMeasurements _ _ _ _ => none
  | .setdasa _ _ => none
  | .entdaa _ => none
  | .coldReset => none
  | .warmReset => none
  | .firmwareStart => none
  | .bootReady => none
  | .recWrite _ => none
  | .recCommit _ => none
  | .powerLoss _ => none
  | .thermalTrip => none
  | .junctionSample _ _ _ _ _ => none
  | .governorSample _ => none
  | .hold => none
  | .bypass => none
  | .idcode => none
  | .samplePreload _ => none
  | .extest => none
  | .highz => none
  | .clamp => none
  | .perfClr _ => none
  | .perstDeassertion => none
  | .deferredImageBoot => none
  | .epochOutRelease => none
  | .inBandInterruptEnable _ => none

end Sys2Proof
end

