-- ==== Sys2Proof/Machine/Bits.lean ====
section
/-! DEFINITION. Bit fields, sign extension, byte order and check sums: the helpers that every unit uses. -/

namespace Sys2Proof.Machine

/-- Field `[hi:lo]` of a number (R7). -/
def fld (w : Nat) (hi lo : Nat) : Nat := (w >>> lo) % 2 ^ (hi + 1 - lo)

/-- Bit `i` of a number. -/
def bitAt (w i : Nat) : Bool := w.testBit i

/-- One as a bit. -/
def b1 (b : Bool) : Nat := if b then 1 else 0

/-- Field `[hi:lo]` of a register. -/
def W64.fld (w : W64) (hi lo : Nat) : Nat := (w.toNat >>> lo) % 2 ^ (hi + 1 - lo)

/-- A register with a field replaced. -/
def W64.setFld (w : W64) (hi lo v : Nat) : W64 :=
  let m : W64 := BitVec.ofNat 64 ((2 ^ (hi + 1 - lo) - 1) <<< lo)
  (w &&& ~~~m) ||| (BitVec.ofNat 64 (v <<< lo) &&& m)

/-- The mask of a field. -/
def fmask (hi lo : Nat) : W64 := BitVec.ofNat 64 ((2 ^ (hi + 1 - lo) - 1) <<< lo)

/-- The two's-complement value of the low `w` bits. -/
def sint (w n : Nat) : Int :=
  let n := n % 2 ^ w
  if 2 * n < 2 ^ w then (n : Int) else (n : Int) - (2 ^ w : Nat)

/-- The low `w` bits of an integer. -/
def uint (w : Nat) (i : Int) : Nat := (i % ((2 ^ w : Nat) : Int)).toNat

/-- `n` bytes of a number, lowest first (R7). -/
def bytesOf (n v : Nat) : List Byte := (List.range n).map fun i => BitVec.ofNat 8 (v >>> (8 * i))

/-- The number that bytes spell, lowest first (R7). -/
def ofBytes : List Byte → Nat
  | [] => 0
  | b :: t => b.toNat + 256 * ofBytes t

/-- The number whose bits are these, lowest first. -/
def ofBits : List Bool → Nat
  | [] => 0
  | b :: t => b1 b + 2 * ofBits t

/-- Number of ones in the low `n` bits. -/
def popCount (n v : Nat) : Nat := (List.range n).foldl (fun c i => if v.testBit i then c + 1 else c) 0

/-- The lowest bit set among the low `n`, `n` where none is. -/
def lowBit (n v : Nat) : Nat := ((List.range n).find? fun i => v.testBit i).getD n

/-- The number of leading zeros of an `n`-bit number. -/
def leadZeros (n v : Nat) : Nat := ((List.range n).find? fun i => v.testBit (n - 1 - i)).getD n

/-- Byte `i` of a wide value. -/
def byteAt {n : Nat} (v : BitVec n) (i : Nat) : Byte := v.extractLsb' (8 * i) 8

/-- A wide value with byte `i` replaced. -/
def putByte {n : Nat} (v : BitVec n) (i : Nat) (b : Byte) : BitVec n :=
  (v &&& ~~~(BitVec.ofNat n (0xFF <<< (8 * i)))) ||| BitVec.ofNat n (b.toNat <<< (8 * i))

/-- Element `i` of width `w` of a wide value. -/
def elemAt {n : Nat} (v : BitVec n) (w i : Nat) : Nat := (v.toNat >>> (w * i)) % 2 ^ w

/-- A wide value made of elements of width `w`, the first lowest. -/
def packElems (w : Nat) : List Nat → Nat
  | [] => 0
  | e :: t => e % 2 ^ w + 2 ^ w * packElems w t

/-- One bit of the CRC-32 of IEEE 802.3, reflected. -/
def crcBit (c : Nat) : Nat := if c % 2 = 1 then 0xEDB88320 ^^^ (c >>> 1) else c >>> 1

/-- One byte of it. -/
def crcByte (c : Nat) (b : Byte) : Nat :=
  let c := c ^^^ b.toNat
  crcBit (crcBit (crcBit (crcBit (crcBit (crcBit (crcBit (crcBit c)))))))

/-- CRC-32 of IEEE 802.3 over bytes (R352, R424). -/
def crc32 (bs : List Byte) : W32 := BitVec.ofNat 32 ((bs.foldl crcByte 0xFFFFFFFF) ^^^ 0xFFFFFFFF)

end Sys2Proof.Machine
end

