-- ==== Sys2Proof/Machine/Crypto.lean ====
section
/-! DEFINITION. SHA-512 (FIPS 180-4) and the verification of an RSASSA-PSS signature (RFC 8017) with RSA-4096,
SHA-512, MGF1 with SHA-512 and a salt of 64 bytes (R443, R459). -/

namespace Sys2Proof.Machine

/-! ### SHA-512 -/

/-- The largest x below 2^n, from `x` on, with p x true, for a property that holds up to a point. -/
def bisect (p : Nat → Bool) : Nat → Nat → Nat
  | 0, x => x
  | n + 1, x => bisect p n (if p (x + 2 ^ n) then x + 2 ^ n else x)

/-- The first 64 bits of the fraction of a square root. -/
def sqrtFrac (p : Nat) : Nat := bisect (fun x => decide (x * x ≤ p * 2 ^ 128)) 70 0 % 2 ^ 64

/-- The first 64 bits of the fraction of a cube root. -/
def cbrtFrac (p : Nat) : Nat := bisect (fun x => decide (x * x * x ≤ p * 2 ^ 192)) 68 0 % 2 ^ 64

def isPrime (n : Nat) : Bool := decide (2 ≤ n) && (List.range n).all fun d => decide (d < 2) || n % d != 0

/-- The first 80 primes. -/
def primes80 : List Nat := (List.range 410).filter isPrime

/-- The constants of the 80 rounds: cube roots of the first 80 primes. -/
def shaK : List Nat := primes80.map cbrtFrac

/-- The initial hash value: square roots of the first 8 primes. -/
def shaH : List Nat := (primes80.take 8).map sqrtFrac

def rotr64 (x n : Nat) : Nat := (x >>> n) ||| (x <<< (64 - n)) % 2 ^ 64

/-- The message schedule, latest word first: `n` words more. -/
def shaSchedule : Nat → List Nat → List Nat
  | 0, w => w
  | n + 1, w =>
    let a := w.getD 1 0
    let b := w.getD 14 0
    let s1 := rotr64 a 19 ^^^ rotr64 a 61 ^^^ (a >>> 6)
    let s0 := rotr64 b 1 ^^^ rotr64 b 8 ^^^ (b >>> 7)
    shaSchedule n ((s1 + w.getD 6 0 + s0 + w.getD 15 0) % 2 ^ 64 :: w)

/-- One round on the eight working variables. -/
def shaRound (v : List Nat) (kw : Nat × Nat) : List Nat :=
  match v with
  | [a, b, c, d, e, f, g, h] =>
    let ch := (e &&& f) ^^^ ((e ^^^ (2 ^ 64 - 1)) &&& g)
    let maj := (a &&& b) ^^^ (a &&& c) ^^^ (b &&& c)
    let t1 := h + (rotr64 e 14 ^^^ rotr64 e 18 ^^^ rotr64 e 41) + ch + kw.1 + kw.2
    let t2 := (rotr64 a 28 ^^^ rotr64 a 34 ^^^ rotr64 a 39) + maj
    [(t1 + t2) % 2 ^ 64, a, b, c, (d + t1) % 2 ^ 64, e, f, g]
  | _ => v

/-- The number that bytes spell, highest first. -/
def ofBytesBE (l : List Byte) : Nat := l.foldl (fun n b => n * 256 + b.toNat) 0

/-- `n` bytes of a number, highest first. -/
def bytesBE (n v : Nat) : List Byte := (bytesOf n v).reverse

/-- The sixteen words of a block of 128 bytes, latest first. -/
def shaWords (b : List Byte) : List Nat :=
  ((List.range 16).map fun i => ofBytesBE ((b.drop (8 * i)).take 8)).reverse

/-- One block. -/
def shaBlock (h : List Nat) (b : List Byte) : List Nat :=
  let w := (shaSchedule 64 (shaWords b)).reverse
  let v := (List.zip shaK w).foldl shaRound h
  (List.zip h v).map fun p => (p.1 + p.2) % 2 ^ 64

def shaBlocks : Nat → List Nat → List Byte → List Nat
  | 0, h, _ => h
  | n + 1, h, l => shaBlocks n (shaBlock h (l.take 128)) (l.drop 128)

/-- SHA-512. -/
def sha512 (m : List Byte) : List Byte :=
  let z := (239 - m.length % 128) % 128
  let p := m ++ [0x80#8] ++ List.replicate z 0 ++ bytesBE 16 (8 * m.length)
  (shaBlocks (p.length / 128) shaH p).foldl (fun l w => l ++ bytesBE 8 w) []

/-! ### RSASSA-PSS -/

/-- MGF1 with SHA-512: `n` bytes. -/
def mgf1 (seed : List Byte) (n : Nat) : List Byte :=
  ((List.range ((n + 63) / 64)).foldl (fun l i => l ++ sha512 (seed ++ bytesBE 4 i)) []).take n

/-- x^65537 mod n. -/
def rsaPow (n x : Nat) : Nat := ((List.range 16).foldl (fun y _ => y * y % n) (x % n)) * x % n

/-- The check of an encoded message (RFC 8017, 9.1.2). -/
def pssCheck (em m : List Byte) : Bool :=
  let masked := em.take 447
  let h := (em.drop 447).take 64
  let db := (List.zip masked (mgf1 h 447)).map fun p => p.1 ^^^ p.2
  let db := match db with
    | b :: t => (b &&& 0x7F#8) :: t
    | [] => []
  em.length == 512 && em.drop 511 == [0xBC#8] && decide ((em.getD 0 0).toNat < 128) &&
    (db.take 382).all (fun b => b == 0) && db.getD 382 0 == 1#8 &&
    sha512 (List.replicate 8 0 ++ sha512 m ++ db.drop 383) == h

/-- RSASSA-PSS over a message with a modulus of 4,096 bits and exponent 65,537. -/
def pssVerify (key sig m : List Byte) : Bool :=
  let n := ofBytesBE key
  let s := ofBytesBE sig
  key.length == 512 && sig.length == 512 && decide (2 ^ 4095 ≤ n) && decide (s < n) &&
    pssCheck (bytesBE 512 (rsaPow n s)) m

end Sys2Proof.Machine
end

