-- ==== Sys2Proof/Machine/Tab.lean ====
section
/-! DEFINITION. Sparse tables: lists of (key, value) pairs in one canonical form (keys rising, no entry
equal to what an unlisted key reads as). Register files, unit arrays and memory are held this way. -/

namespace Sys2Proof.Machine

/-- A sparse table. What an unlisted key reads as is an argument of every operation. -/
abbrev Tab (α : Type) := List (Nat × α)

/-- The value under a key, `d` where the key is not listed. -/
def Tab.get {α : Type} (d : α) : Tab α → Nat → α
  | [], _ => d
  | (k, v) :: t, n => if k = n then v else Tab.get d t n

/-- Write a value that differs from the default under a key, keeping the keys rising. -/
def Tab.put {α : Type} : Tab α → Nat → α → Tab α
  | [], n, v => [(n, v)]
  | (k, w) :: t, n, v =>
    if n < k then (n, v) :: (k, w) :: t
    else if n = k then (n, v) :: t
    else (k, w) :: Tab.put t n v

/-- Remove a key. -/
def Tab.erase {α : Type} : Tab α → Nat → Tab α
  | [], _ => []
  | (k, w) :: t, n => if k = n then Tab.erase t n else (k, w) :: Tab.erase t n

/-- Write a value under a key; writing the default removes the entry. -/
def Tab.set {α : Type} [DecidableEq α] (d : α) (m : Tab α) (n : Nat) (v : α) : Tab α :=
  if v = d then m.erase n else m.put n v

/-- The keys rise strictly. -/
def Tab.sorted {α : Type} : Tab α → Bool
  | [] => true
  | [_] => true
  | (k, _) :: (j, w) :: t => decide (k < j) && Tab.sorted ((j, w) :: t)

/-- The canonical form: keys rising, no entry equal to the default. -/
def Tab.wf {α : Type} [DecidableEq α] (d : α) (m : Tab α) : Bool :=
  m.sorted && m.all fun p => decide (p.2 ≠ d)

/-- Apply a function to the value under a key. -/
def Tab.upd {α : Type} [DecidableEq α] (d : α) (m : Tab α) (n : Nat) (f : α → α) : Tab α :=
  m.set d n (f (m.get d n))

/-- A set of numbers is a table of truth values whose unlisted keys are absent. -/
abbrev NSet := Tab Bool

def NSet.has (m : NSet) (n : Nat) : Bool := Tab.get false m n
def NSet.add (m : NSet) (n : Nat) : NSet := Tab.set false m n true
def NSet.del (m : NSet) (n : Nat) : NSet := Tab.set false m n false

end Sys2Proof.Machine
end

