-- ==== Sys2Proof/Machine/State.lean ====
section
/-! DEFINITION. The state of the block: every register, memory, queue, counter, mode and pin that the
spec gives the device, as plain data, and the state after reset. -/

namespace Sys2Proof.Machine

/-! ### Core state -/

/-- One tile register (R150, R157, R163). `rows` and `ppart` count 64 rows. -/
structure Tile where
  /-- TILE_CFGi: PAIR, ROWS, ROWB as the last tcfg gave them; 0 when unconfigured (R172). -/
  cfg : W64
  valid : Bool
  rows : Tab TRow
  /-- Bit r: row r is poisoned (R163). -/
  poison : W64
deriving DecidableEq, Repr

def Tile.reset : Tile := ⟨0, false, [], 0⟩

/-- The architectural registers of a core (R80, R120, R134, R150): what a precise exception or a
cancelled tile operation puts back to an older value (R110, R111). -/
structure Arch where
  pc : W64
  g : Tab W64
  f : Tab W64
  v : Tab VReg
  k : Tab KReg
  /-- The stored core registers under their numbers (R93); an unlisted one holds its reset value. -/
  creg : Tab W64
  /-- Sorrel rows; an empty row is absent (R134). -/
  sorrel : Tab (Option VReg)
  tiles : Tab Tile
deriving DecidableEq, Repr

def Arch.reset : Arch := ⟨0, [], [], [], [], [], [], []⟩

/-- Whether a core executes (R103, R119, R422). -/
inductive CoreMode where
  /-- Held in reset until firmware releases it (R119). -/
  | held
  | running
  /-- The wedged state (R103). -/
  | wedged
  /-- Stopped by the fatal state (R422). -/
  | stopped
deriving DecidableEq, Repr

/-- What the oldest unissued instruction of a core waits for (R506 names most of these). -/
inductive Wait where
  | none
  /-- Older tile operations to settle, or a staging buffer (R110, R166). -/
  | tiles
  /-- A free entry of the store buffer, or its drain (R90, R257). -/
  | stores
  /-- A boundary, for the fence.e issued in this epoch (R90). -/
  | fenceE (epoch : BitVec 48)
  /-- A task, for the read of CORE_TTAKE into this g register (R222). -/
  | take (d : BitVec 5)
  /-- Tile work and stores, for the write of CORE_TDONE with this status (R224). -/
  | tdone (status : Byte)
  /-- The verdict of its version (R236, R237). -/
  | verdict
  /-- A way of a set held by versions (R238). -/
  | setWay
  /-- A remote answer or a tracker (R336, R351). -/
  | remote
  /-- A pending delivery that comes first (R109). -/
  | delivery
  /-- A miss register (R270). -/
  | miss
  /-- The verdict of its version, for the push of a delivery held in it (R516); `way` where the push waits for a way
  of a set (R238). -/
  | push (way : Bool)
deriving DecidableEq, Repr

/-- One entry of the store buffer, or one held remote store: bytes of one 32-byte sector (R257). -/
structure SbEntry where
  /-- Address of the sector: local physical, or global with bit 63 set. -/
  addr : W64
  /-- Bit i: byte i of the sector is stored. -/
  mask : W32
  data : Sector
  /-- The sector is written as poisoned (a tstore of a poisoned row, R163). -/
  poison : Bool
  /-- cache.dead: the whole line becomes zero (R279); `addr` is the line's first sector. -/
  dead : Bool
  /-- The level that issued the store (R112). -/
  pl : BitVec 2
  /-- The version that holds the store (R234). -/
  ver : Option Nat
  /-- HINT of the page of the store (R263). -/
  hint : BitVec 2
  /-- Bits of the stored bytes that the store leaves as they are (R128). -/
  keep : Sector
  /-- Bytes of packed groups that hold inactive elements too: to another device they go by atomics (R517). -/
  part : W32
  /-- The remote stores that the entry stands for: a store over several sectors counts in its first alone (R237). -/
  count : Nat
deriving DecidableEq, Repr

/-- A store held behind an unsettled tile operation (R110): the youngest operation older than it. -/
structure HeldStore where
  behind : Nat
  entry : SbEntry
deriving DecidableEq, Repr

/-- The operands of a tmma as its encoding gives them (R178 to R186). -/
structure MmaArgs where
  c : Nat
  a : Nat
  b : Nat
  fa : BitVec 4
  fb : BitVec 4
  acc : BitVec 2
  z : Bool
  kb : Nat
  sam : BitVec 2
  sbm : BitVec 2
  sav : Nat
  sbv : Nat
deriving DecidableEq, Repr

/-- What one run of a tile operation gives (R179, R204): the accumulator rows, the flags it raises and
whether its checks pass. -/
structure RunResult where
  lo : List TRow
  hi : List TRow
  /-- Flags in the positions of CORE_FPCSR [6:0]. -/
  flags : BitVec 7
  pass : Bool
  /-- The lane that the failing checks name, when they name one (R214). -/
  lane : Option Nat
  /-- The run met a parity error inside its engine (R407): its rows are not used. -/
  parity : Bool
deriving DecidableEq, Repr

/-- How a tile operation ends when it settles (R110, R182, R209). -/
inductive TopEnd where
  | ok (r : RunResult)
  | fault (cause : Nat) (tval : W64)
deriving DecidableEq, Repr

/-- Where a tile operation stands (R192, R206, R208). -/
inductive TopStat where
  | waiting
  | running
  /-- A replay or third run waits for an engine. -/
  | replaying
  | ended (e : TopEnd)
deriving DecidableEq, Repr

/-- One finished run of a tile operation and where it ran. -/
structure RunRec where
  engine : Nat
  half : Nat
  res : RunResult
deriving DecidableEq, Repr

/-- An unsettled tile operation (R110) with the architectural state at its issue. -/
structure TileOp where
  seq : Nat
  pc : W64
  args : MmaArgs
  snap : Arch
  stat : TopStat
  /-- Runs that have ended, oldest first. -/
  runs : List RunRec
  /-- Runs that this operation still waits for before a verdict. -/
  due : Nat
  /-- Its first two runs are compared bit for bit (R206, R211). -/
  pair : Bool
  /-- The checking level in force at issue (R202, R215). -/
  level : BitVec 2
  /-- MX_CTRL.LEND of each core of the cluster at issue (R215). -/
  lends : BitVec 4
  /-- CORE_CAUSE.ENGINE and HALF of a fault (R111). -/
  engine : Option Nat
  half : Nat
  /-- Younger instructions executed past it (R110). -/
  younger : Nat
deriving DecidableEq, Repr

/-- A failed store as CORE_LSE_LOG holds it (R112). -/
structure LseEntry where
  sector : W64
  pl : BitVec 2
  kind : BitVec 2
deriving DecidableEq, Repr

/-- Pending asynchronous causes with what their deliveries collect (R105, R108, R330). -/
structure Pend where
  lse : Bool
  lseCount : Nat
  rstore : Bool
  rstoreCount : Nat
  epoch : Bool
  epochMask : W64
  msg : Bool
  msgMask : W64
  verdict : Bool
  verdictMask : W64
deriving DecidableEq, Repr

def Pend.reset : Pend := ⟨false, 0, false, 0, false, 0, false, 0, false, 0⟩

/-- The fields of a task descriptor that are copied at placement (R218, R219). -/
structure TaskDesc where
  addr : W64
  seed : W64
  taskid : W32
  slot : Nat
  affinity : Nat
  watch : Bool
  spec : Bool
  check : BitVec 2
  scope : BitVec 2
  watchv : Nat
  version : Nat
  /-- Used wait entries: sheaf and COUNT. -/
  waits : List (Nat × Nat)
  /-- Used signal entries: sheaf and INC. -/
  sigs : List (Nat × Nat)
deriving DecidableEq, Repr

/-- A placed task: its placement number, its copied descriptor and whether it is speculative still. -/
structure QTask where
  seq : Nat
  d : TaskDesc
  spec : Bool
deriving DecidableEq, Repr

/-- The running task of a core (R222, R59, R224). -/
structure TaskCtx where
  q : QTask
  fpcsr : W64
  /-- The core logged a failed store while running the task. -/
  late : Bool
deriving DecidableEq, Repr

/-- One L1 data line: its valid sectors (R256) and those delivered to it poisoned (R405). -/
structure L1Line where
  valid : BitVec 4
  poison : BitVec 4
  /-- The line was filled from a held line (R236). -/
  held : Bool
  way : Nat
  /-- In the least-recently-used position: brought in under HINT streaming and not accessed since (R256). -/
  cold : Bool
deriving DecidableEq, Repr

def L1Line.reset : L1Line := ⟨0, 0, false, 0, false⟩

/-- A miss register of an L1 (R270): line, sectors asked for, further misses merged, and whether only the
home slice is to be filled (R275, R280). -/
structure L1Miss where
  line : Nat
  mask : BitVec 4
  merged : Nat
  llcOnly : Bool
  hint : BitVec 2
  /-- The virtual addresses of the translated prefetches in it (R281). -/
  pf : List Nat
deriving DecidableEq, Repr

/-- A stream prefetch that waits for a miss register (R270). -/
structure PfWait where
  line : Nat
  hint : Nat
  llcOnly : Bool
  pf : List Nat
deriving DecidableEq, Repr

/-- A stream of the prefetcher (R275): its last line, stride, how often it advanced, the last line requested. -/
structure Stream where
  last : Nat
  stride : Int
  count : Nat
  asked : Int
deriving DecidableEq, Repr

/-- A cached translation: virtual page number, the leaf and its level (R251, R254). -/
structure TlbEntry where
  vpn : Nat
  leaf : W64
  level : Nat
deriving DecidableEq, Repr

/-- A sector that a remote read delivered to the core's waiting instruction (R351). -/
inductive RemoteData where
  | data (sector : W64) (bytes : Sector) (poison : Bool)
  | failed (sector : W64)
  /-- The old value that an atomic returned, or that it met poison. -/
  | old (addr : W64) (v : W64) (poison : Bool)
  | stored (addr : W64) (good : Bool)
deriving DecidableEq, Repr

/-- One core with everything private to it. -/
structure Core where
  mode : CoreMode
  arch : Arch
  wait : Wait
  pend : Pend
  lse : List LseEntry
  lost : Nat
  sb : List SbEntry
  heldSt : List HeldStore
  tops : List TileOp
  nextTop : Nat
  /-- Tiles bound to the two staging buffers, with the youngest operation older than the staged writes (R166). -/
  staged : List (Nat × Nat)
  task : Option TaskCtx
  remote : List RemoteData
  tlb : List TlbEntry
  l1 : Tab L1Line
  l1Miss : List L1Miss
  streams : List Stream
  /-- A written MISS_MODE, and the lines of the misses that it waits for (R271). -/
  missMode : Option (Bool × List Nat)
  /-- Stream prefetches that wait for a miss register, oldest first (R270). -/
  pfWait : List PfWait
  /-- A written L1_CTRL whose prefetch fields wait, and the lines of the misses and prefetches older than it (R274). -/
  l1Pend : Option (W64 × List Nat)
  sram : Tab Byte
  /-- Codes of R406 of the registers and rows that hold a parity error. -/
  parity : List Nat
  /-- The cycles of its clock at the recent events of cause 0x32 (R416). -/
  parityAt : List Nat
  retired : Bool
  /-- The runtime has been started since the last reset (R448). -/
  started : Bool
  /-- A per-core reset has been requested (R439). -/
  resetting : Bool
  /-- CORE_TTAKE takes nothing: a core test is scheduled or running (R390). -/
  noTake : Bool
  /-- Matrix-vector operations made, for the sampling of R207. -/
  mvOps : Nat
  /-- Whether a store was outstanding at the latest boundary (R117). -/
  outAtBoundary : Bool
deriving DecidableEq, Repr

def Core.reset : Core :=
  { mode := .held, arch := Arch.reset, wait := .none, pend := Pend.reset, lse := [], lost := 0, sb := [],
    heldSt := [], tops := [], nextTop := 0, staged := [], task := none, remote := [], tlb := [], l1 := [],
    l1Miss := [], streams := [], missMode := none, pfWait := [], l1Pend := none, sram := [], parity := [], parityAt := [], retired := false,
    started := false, resetting := false, noTake := false, mvOps := 0, outAtBoundary := false }

/-! ### Engines -/

/-- MX_ENGn.STATE (R217). -/
inductive EngState where
  | service | quarantined | testing | retired
deriving DecidableEq, Repr

/-- A run on an engine half: for which core's operation, and whether it repeats an earlier run. -/
structure EngRun where
  core : Nat
  seq : Nat
  replay : Bool
  checked : Bool
deriving DecidableEq, Repr

/-- Why an engine is under test (R213, R390, R416, R418). -/
inductive TestWhy where
  | none | quarantine | redirect | command (mb : Nat) | automatic | boot
deriving DecidableEq, Repr

/-- One Clover engine (R176, R210 to R217, R419, R430). -/
structure Engine where
  state : EngState
  ok : Bool
  chkredir : Bool
  redir : Nat
  /-- Operations started since reset; OPS is this modulo 2^32. -/
  ops : Nat
  /-- OPS at each suspect and transient event, and with the lane at each transient verdict that names one. -/
  susp : List Nat
  trans : List Nat
  laneHits : List (Nat × Nat)
  lane : Nat
  lower : Bool
  upper : Bool
  run0 : Option EngRun
  run1 : Option EngRun
  /-- The core and tile whose B the operand cache holds (R168). -/
  bheld : Option (Nat × Nat)
  /-- Its operand cache is zeroed when this operation (core and number) settles (R439). -/
  zeroDue : Option (Nat × Nat)
  why : TestWhy
  /-- A self-test waits for the owner's task boundary (R390). -/
  testDue : Bool
  /-- The mailbox whose SELFTEST the test of a quarantine answers too (R390). -/
  asked : Option Nat
  /-- Core-in-cluster of the other core that it served last (R192). -/
  last : Nat
deriving DecidableEq, Repr

def Engine.reset : Engine :=
  { state := .service, ok := true, chkredir := false, redir := 0, ops := 0, susp := [], trans := [], laneHits := [],
    lane := 0, lower := false, upper := false, run0 := none, run1 := none, bheld := none, zeroDue := none, why := .none,
    testDue := false, asked := none, last := 0 }

/-- A replay or third run that waits for an engine (R206, R208). -/
structure Replay where
  core : Nat
  seq : Nat
  /-- Engines of the earlier runs. -/
  not : List Nat
deriving DecidableEq, Repr

/-- The engine pool of one cluster: its waiting replays (R208). -/
structure Pool where
  replays : List Replay
deriving DecidableEq, Repr

def Pool.reset : Pool := ⟨[]⟩

/-! ### Memory, caches, stacks -/

/-- A line of a last-level slice (R259 to R263). The bytes stand once, in the committed memory. -/
structure LlcLine where
  valid : BitVec 4
  dirty : BitVec 4
  /-- Clean sectors whose copy here is poisoned (R282). -/
  poison : BitVec 4
  way : Nat
  age : Nat
  pinned : Bool
  /-- Mem.stamp at its latest access (R238). -/
  used : Nat
deriving DecidableEq, Repr

def LlcLine.reset : LlcLine := ⟨0, 0, 0, 0, 0, false, 0⟩

/-- A cached line of another device's memory (R340). -/
structure RLine where
  valid : BitVec 4
  poison : BitVec 4
  data : BitVec 1024
deriving DecidableEq, Repr

def RLine.reset : RLine := ⟨0, 0, 0⟩

/-- A DRAM row (R290). -/
structure Row where
  stack : Nat
  pch : Nat
  bank : Nat
  row : Nat
deriving DecidableEq, Repr

/-- A row being copied to a spare (R308): the row, the spare, the chunk's address. -/
structure RowCopy where
  row : Row
  spare : Nat
  addr : Nat
deriving DecidableEq, Repr

/-- An operation running on a Swath channel (R283 to R286). -/
structure Swath where
  busy : Bool
  /-- The operation as GO started it: first line, number of lines, OP and PIN (R285). -/
  first : Nat
  lines : Nat
  op : Nat
  pin : Bool
  /-- IRQ as GO found it. -/
  irq : Bool
  /-- Line numbers already treated. -/
  treated : NSet
  count : Nat
  poisonSeen : Bool
  aborted : Bool
deriving DecidableEq, Repr

def Swath.reset : Swath := ⟨false, 0, 0, 0, false, false, [], 0, false, false⟩

/-- Memory and the caches of the device. -/
structure Mem where
  /-- The committed bytes; an unlisted address reads 0 (R311). -/
  bytes : Tab Byte
  /-- Poisoned sectors (R409). -/
  poison : NSet
  /-- Lines whose zero record is clear (R300, R311). -/
  written : NSet
  /-- Retired frames in the order of retirement (R310). -/
  retired : List Nat
  /-- Rows remapped, and the spare each points at (R308). -/
  remaps : List (Row × Nat)
  /-- Rows being copied to a spare (R308). -/
  copying : List RowCopy
  /-- Corrected errors of rows since they came into use (R307). -/
  corrected : List (Row × Nat)
  /-- Spare rows taken in each bank, by `bankKey` (R308). -/
  spares : Tab Nat
  /-- What the coming reads of sectors from their stacks find, as STACK_READ has it: first and second read (R307). -/
  finds : List (Nat × StackFind × StackFind)
  llc : Tab LlcLine
  /-- Accesses to the slices so far: the order in which lines were used (R238). -/
  stamp : Nat
  /-- Retired slots, cluster × 2^18 + set × 16 + way (R421), and parity errors per slot since boot. -/
  slotRet : NSet
  slotErr : Tab Nat
  /-- Retired L1 ways, core × 2^12 + set × 8 + way, and parity errors per way. -/
  l1Ret : NSet
  l1Err : Tab Nat
  /-- Failing slots and ways that a set with its full number of retired ones keeps in use (R421): slots, and 2^40 + L1 ways. -/
  slotFull : NSet
  /-- Slice misses outstanding: line numbers (R272). -/
  miss : List Nat
  /-- Write-backs on their way to a stack: line and sectors (R300). -/
  wbs : List (Nat × BitVec 4)
  rlines : Tab RLine
  swath : Tab Swath
  /-- Zero-marking has completed since the last reset (R311). -/
  served : Bool
  /-- The overwrite runs: MEM_WIPE.BUSY (R311). -/
  wiping : Bool
  /-- MEM_WIPE.DONE while the overwrite runs (R311, R314). -/
  wipeDone : Nat
deriving DecidableEq, Repr

def Mem.reset : Mem :=
  { bytes := [], poison := [], written := [], retired := [], remaps := [], copying := [], corrected := [],
    spares := [], finds := [], llc := [], stamp := 0, slotRet := [], slotErr := [], l1Ret := [], l1Err := [], slotFull := [], miss := [], wbs := [], rlines := [], swath := [],
    served := false, wiping := true, wipeDone := 0 }

/-- One memory stack (R301 to R305, R314). -/
structure Stack where
  temp : Nat
  refx : Nat
  refxNext : Nat
  zone : Nat
  zoneNext : Nat
  crit : Bool
  forced : Bool
  /-- Refresh debts, pseudo-channel × 96 + bank. -/
  debt : Tab Nat
  /-- Data rows whose metadata each pseudo-channel controller caches, bank × 16,384 + row, at most 256 (R295). -/
  metaRows : Tab (List Nat)
deriving DecidableEq, Repr

def Stack.reset : Stack := ⟨0, 0, 0, 0, 0, false, false, [], []⟩

/-! ### Speculation and tasks -/

/-- The states of a version (R232). -/
inductive VerState where
  | free | opened | closed | discarding
deriving DecidableEq, Repr

/-- A held line of a version (R236): stored bytes, their mask, poison of their sectors (R282). -/
structure HeldLine where
  mask : BitVec 128
  data : BitVec 1024
  poison : BitVec 4
  /-- The way of its set that it occupies (R236, R238). -/
  way : Nat
  /-- A cache.dead made it (R236); `late` are the bytes stored since. -/
  dead : Bool
  late : BitVec 128
  /-- Sectors that one store covered whole (R411, R412). -/
  whole : BitVec 4
  /-- Bits of the stored bytes that no store wrote (R128). -/
  keep : BitVec 1024
deriving DecidableEq, Repr

def HeldLine.reset : HeldLine := ⟨0, 0, 0, 0, false, 0, 0, 0⟩

/-- A remote store that a version holds: the core and the placed task that made it (R239, R112). -/
structure HeldRemote where
  core : Nat
  task : Nat
  entry : SbEntry
deriving DecidableEq, Repr

/-- The end of a task as it is reported to firmware (R224). -/
structure TaskReport where
  /-- Its placement number. -/
  seq : Nat
  core : Nat
  taskid : W32
  status : Byte
  late : Bool
  desc : W64
deriving DecidableEq, Repr

/-- One speculation version (R232, R241, R247). -/
structure Version where
  state : VerState
  last : BitVec 2
  nf : Bool
  defer : Bool
  cap : Nat
  guardSheaf : Nat
  finite : Bool
  guardCount : Nat
  lines : Tab HeldLine
  remote : List HeldRemote
  adds : List (Nat × Nat)
  ends : List TaskReport
  dfValid : Bool
  dfCore : Nat
  dfCause : Nat
  dfTask : W32
  dfTval : W64
  /-- A commit has taken effect and its remote stores are still to be sent (R244). -/
  committing : Bool
  /-- The epoch of that commit, in which its remote stores count as made (R244). -/
  made : BitVec 48
deriving DecidableEq, Repr

def Version.reset : Version :=
  { state := .free, last := 0, nf := false, defer := false, cap := 0, guardSheaf := 0xFFFF,
    finite := false, guardCount := 0, lines := [], remote := [], adds := [], ends := [], dfValid := false,
    dfCore := 0, dfCause := 0, dfTask := 0, dfTval := 0, committing := false, made := 0 }

/-- A step slot (R363). -/
structure StepSlot where
  pending : Option W64
  cur : W64
  prev : W64
deriving DecidableEq, Repr

def StepSlot.reset : StepSlot := ⟨none, 0, 0⟩

/-! ### Timebase -/

/-- TB_STAT.MODE (R331). -/
inductive TbMode where
  | stopped | tracking | holdover | unscheduled
deriving DecidableEq, Repr

structure Timebase where
  epoch : BitVec 48
  tick : Nat
  mode : TbMode
  hold : Nat
  lock : Bool
  /-- A provisional boundary waits for its pulse or packet (R318). -/
  prov : Bool
  /-- LOCK was 0 at that provisional boundary (R315). -/
  provLockless : Bool
  /-- SRC, PERIOD and MEM_CTRL.REF_MODE as they are in effect; the registers hold what was written (R324). -/
  src : Nat
  period : Nat
  refMode : Bool
  /-- No slot fires before the next boundary (R320). -/
  slotsHeld : Bool
  /-- PEL_STAT.NOVIS (R347). -/
  novis : Bool
  /-- Windowed refresh runs as distributed (R303). -/
  fallback : Bool
  /-- Ticks since reset, for the ages of R336, R338 and R350. -/
  now : Nat
  /-- The refresh window in progress: its start and its end in `now` (R302). -/
  window : Option (Nat × Nat)
  /-- EPOCH_OUT is low until `now` is this (R324). -/
  outUntil : Nat
  /-- TIMEREF is present and in tolerance. -/
  timeref : Bool
deriving DecidableEq, Repr

def Timebase.reset : Timebase :=
  { epoch := 0, tick := 0, mode := .stopped, hold := 0, lock := false, prov := false, provLockless := false,
    src := 0, period := 250000, refMode := false, slotsHeld := false, novis := true, fallback := false, now := 0,
    window := none, outUntil := 0, timeref := true }

/-! ### Pelvar -/

/-- Who waits for the answer of a request (R336, R351). -/
inductive Origin where
  | load (core : Nat)
  | store (core : Nat) (pl : BitVec 2)
  | atomic (core : Nat)
  | push (core : Nat)
  /-- A held store of a committed version: who made it, its task and level. -/
  | version (v core task : Nat) (pl : BitVec 2)
  | copy (id : Nat)
  | packed (core : Nat) (pl : BitVec 2)
  | collective (phase rank : Nat)
deriving DecidableEq, Repr

/-- A request that holds a tracker (R336, R350). -/
structure Tracker where
  packet : Packet
  origin : Origin
  /-- Other agents whose stores merged into this one (R337). -/
  also : List Origin
  /-- When the request was last sent, in ticks, and the epoch in which it was made (R342). -/
  sent : Nat
  epoch : BitVec 48
  /-- The store behind a WR. -/
  entry : Option SbEntry
  /-- It has been sent a second time (R350). -/
  again : Bool
deriving DecidableEq, Repr

/-- A remote store that waits behind an outstanding WR to its sector (R337). -/
structure RWait where
  origin : Origin
  /-- Other agents whose stores merged into this one. -/
  also : List Origin
  entry : SbEntry
  /-- The bits of its first packed word are cleared already, and still to be set (R517). -/
  cleared : Bool
deriving DecidableEq, Repr

/-- A request-filter record (R338). -/
structure FiltRec where
  src : BitVec 16
  tag : BitVec 20
  status : BitVec 8
  old : W64
  at_ : Nat
deriving DecidableEq, Repr

/-- PEL_PORTn_STAT.STATE (R362). -/
inductive PortState where
  | down | training | up
deriving DecidableEq, Repr

/-- A flit that has been sent and is not acknowledged: its number and its 240 bytes of packet stream (R353). -/
structure Flit where
  seq : Nat
  stream : List Byte
deriving DecidableEq, Repr

/-- A port with its link layer (R348, R353, R362). -/
structure Port where
  state : PortState
  width : Bool
  peer : BitVec 16
  downs : Nat
  replays : Nat
  /-- The sequence number the receiver expects next, replays of it, and the tick at which it first failed. -/
  seq : Nat
  again : Nat
  failed : Option Nat
  /-- Flits taken whose room is still to be returned to the other end. -/
  owed : Nat
  /-- Packet stream that waits for a flit. -/
  stream : List Byte
  /-- The number of the next flit; flits sent and not acknowledged, oldest first; room that the other end has advertised. -/
  next : Nat
  out : List Flit
  room : Nat
  /-- Replays of the oldest flit out, and the tick of the first request for one. -/
  outAgain : Nat
  outFailed : Option Nat
deriving DecidableEq, Repr

def Port.reset : Port := ⟨.down, false, 0xFFFF, 0, 0, 0, 0, none, 0, [], 0, [], 0, 0, none⟩

/-- A held TIME packet, to count as arriving at this tick (R356). -/
structure HeldTime where
  due : Nat
  epoch : BitVec 48
  period : Nat
deriving DecidableEq, Repr

/-- An exact value with the sign of zero and the special values: what nodes carry (R68, R69). -/
inductive XVal where
  | fin (neg : Bool) (num : Nat) (exp : Int)
  | inf (neg : Bool)
  | nan
deriving DecidableEq, Repr

/-- A node of a collective phase (R359): level 0 to 5 and 6 for the result, lowest rank, first element. -/
structure ColNode where
  level : Nat
  rank : Nat
  first : Nat
  vals : List XVal
deriving DecidableEq, Repr

/-- A collective phase running on the device (R357 to R361). -/
structure Phase where
  id : Nat
  src : Nat
  dst : Nat
  rmap : List Nat
  count : Nat
  fmt : BitVec 4
  op : BitVec 2
  all : Bool
  wsheaf : Nat
  wcount : Nat
  ssheaf : Nat
  sinc : Nat
  stride : Nat
  deadline : Nat
  /-- Epoch of its start. -/
  start : BitVec 48
  read : Bool
  nodes : List ColNode
  result : Option (List XVal)
  /-- COL packets still to be sent: destination, AUX, ADDR and payload (R336). -/
  outbox : List (Nat × Nat × Nat × List Byte)
  /-- The device the result came from has it; what has been passed on (R360). -/
  passed : Bool
deriving DecidableEq, Repr

structure Pelvar where
  trackers : Tab (Option Tracker)
  /-- Tick of the last use of each tag, plus one; 0 when never used. -/
  used : Tab Nat
  rwait : List RWait
  filter : List FiltRec
  /-- WR and ATM packets that wait for a record of the full filter, with their ports (R338). -/
  filtWait : List (Nat × Packet)
  ports : Tab Port
  /-- Arriving requests that wait until memory is served, or for the copy of a row, with their ports (R308, R311). -/
  homeWait : List (Nat × Packet)
  /-- Packets handed to the link layer of a port, oldest first, with their ports. -/
  sent : List (Nat × Packet)
  /-- Flits sent, oldest first, as their 256 bytes, with their ports (R353). -/
  wire : List (Nat × List Byte)
  /-- The driver has set PEL_CFG.EN since the last reset (R441). -/
  enabled : Bool
  held : List HeldTime
  /-- The epoch numbers of the TIME packets used (R356). -/
  timesUsed : NSet
  phases : List Phase
  /-- FAIL packets of phases that have stopped, which wait for a tracker: phase, destination, AUX, ADDR, payload (R361). -/
  colOut : List (Nat × Nat × Nat × Nat × List Byte)
  vlag : Nat
  /-- Late stores since the last VISLATE report, and the epoch of that report (R344, R397). -/
  vislate : Nat
  vislateAt : Option (BitVec 48)
deriving DecidableEq, Repr

def Pelvar.reset : Pelvar :=
  { trackers := [], used := [], rwait := [], filter := [], filtWait := [], homeWait := [], ports := [], sent := [], wire := [],
    enabled := false, held := [], timesUsed := [], phases := [], colOut := [], vlag := 2, vislate := 0, vislateAt := none }

/-! ### Control die -/

/-- MBX_CTL.STATE (R382). -/
inductive MbState where
  | free | posted | accepted | done
deriving DecidableEq, Repr

/-- The command that firmware copied at acceptance (R384). -/
structure Cmd where
  code : Nat
  arglen : Nat
  tag : W32
  args : List Byte
  seq : Nat
deriving DecidableEq, Repr

structure Mailbox where
  state : MbState
  status : Byte
  jseq : W32
  irq : Bool
  badwr : Bool
  cmd : W64
  args : Tab Byte
  rsplen : Nat
  result : Tab Byte
  taken : Option Cmd
  /-- A long command holds its status and result here until COMMAND_COMPLETE (R383, R385). -/
  ready : Option (Byte × List Byte)
  /-- The accepted command has been begun by its own step. -/
  begun : Bool
deriving DecidableEq, Repr

def Mailbox.reset : Mailbox := ⟨.free, 0, 0, false, false, 0, [], 0, [], none, none, false⟩

/-- A Windrow entry (R400). -/
structure JEntry where
  seq : Nat
  mailbox : Nat
  status : Byte
  code : Nat
  arglen : Nat
  accept : BitVec 48
  done : Option (BitVec 48)
  tag : W32
  count : W32
  arg0 : W64
  res0 : W64
deriving DecidableEq, Repr

/-- A record of the report ring (R397). -/
structure Report where
  kind : Nat
  unit : Nat
  id : W32
  epoch : BitVec 48
  a : W64
  b : W64
deriving DecidableEq, Repr

/-- What the record at the front of the lists waits for. -/
inductive ListWait where
  | none
  /-- A BARRIER's sheaf and COUNT. -/
  | barrier (sheaf count : Nat)
  /-- The epoch of a WAIT_EPOCH. -/
  | epoch (n : Nat)
deriving DecidableEq, Repr

/-- A command list being read (R389). -/
structure ListJob where
  mb : Nat
  addr : Nat
  count : Nat
  next : Nat
  jseq : Nat
  /-- The record at `next` has been read (R389). -/
  seen : Bool
  hold : ListWait
  /-- Boundaries that passed before the sheaf of a BARRIER reached its COUNT (R394). -/
  waited : Nat
  /-- MODE became stopped while a WAIT_EPOCH waited (R394). -/
  stopped : Bool
deriving DecidableEq, Repr

/-- A copy, fill or checkpoint in progress (R395, R396). -/
structure CopyJob where
  id : Nat
  src : Nat
  dst : W64
  len : Nat
  pattern : Option W64
  ssheaf : Nat
  sinc : Nat
  /-- The entry of the checkpoint it belongs to. -/
  ckpt : Option Nat
  /-- A poisoned sector was skipped (R415), or a store was never answered (R350). -/
  bad : Bool
  /-- Bytes copied, for the report of a checkpoint. -/
  moved : Nat
  index : Nat
deriving DecidableEq, Repr

/-- A checkpoint that waits for its sheaf (R396). -/
structure Ckpt where
  idx : Nat
  src : Nat
  dst : W64
  len : Nat
  wsheaf : Nat
  wcount : Nat
  ssheaf : Nat
  /-- The copy that serves it, once that has begun. -/
  copy : Option Nat
deriving DecidableEq, Repr

/-- A core test scheduled or running (R390, R416). -/
structure CoreTest where
  core : Nat
  mb : Option Nat
  running : Bool
deriving DecidableEq, Repr

/-- A change of an engine's standing that a verdict brought, for the fault history (R214). -/
inductive EngNote where
  | redirect (engine redir : Nat)
  | quarantine (engine other core : Nat)
  | retire (engine lane : Nat)
deriving DecidableEq, Repr

/-- A verdict record sent to the control die (R214). -/
structure VerdictRec where
  engine : Nat
  other : Nat
  core : Nat
  /-- 0 suspect, 1 transient, 2 unresolved. -/
  verdict : Nat
  epoch : BitVec 48
  lane : Option Nat
  notes : List EngNote
deriving DecidableEq, Repr

/-- A core's wedge message (R103). -/
structure WedgeMsg where
  core : Nat
  cause : Nat
  tval : W64
  /-- The task that the core ran, which is lost (R248). -/
  task : Option W32
deriving DecidableEq, Repr

structure Control where
  mailboxes : Tab Mailbox
  /-- POSTED mailboxes in the order of their POSTED writes (R384). -/
  posted : List Nat
  journal : Tab (Option JEntry)
  reports : Tab (Option Report)
  /-- MSI-X vectors signalled, oldest first. -/
  msix : List Nat
  /-- Vectors 1 and 3: tick of the last message plus one, and whether one is owed (R378). -/
  msixAt1 : Nat
  msixOwed1 : Bool
  msixAt3 : Nat
  msixOwed3 : Bool
  /-- The pending-bit array (R374). -/
  msixPend : W64
  /-- The MSI-X table, 1 KiB (R374). -/
  msixTable : Tab Byte
  /-- The host has configured the function: Memory Space Enable of its Command register (R377). -/
  configured : Bool
  /-- The addresses that the host gave the BARs (R374). -/
  bar0At : W64
  bar2At : W64
  /-- The size of BAR2 is 2^n bytes, as Resizable BAR gives it (R374). -/
  bar2 : Nat
  lists : List ListJob
  copies : List CopyJob
  nextCopy : Nat
  ckpts : List Ckpt
  coreTests : List CoreTest
  verdicts : List VerdictRec
  wedges : List WedgeMsg
  /-- End reports that firmware holds back, oldest first: one of a committed version waits for the version's remote
  stores (R249). -/
  ends : List (Option Nat × TaskReport)
  /-- A control processor has stalled (R372). -/
  stalled : Bool
  /-- Data returned to the host by its last read, and its EP attribute (R375, R414). -/
  hostData : List Byte
  hostEp : Bool
  /-- The last host access completed with Unsupported Request. -/
  hostUr : Bool
  /-- AER has logged an Advisory Non-Fatal error (R414). -/
  aer : Bool
deriving DecidableEq, Repr

def Control.reset : Control :=
  { mailboxes := [], posted := [], journal := [], reports := [], msix := [], msixPend := 0, msixAt1 := 0, msixOwed1 := false,
    msixAt3 := 0, msixOwed3 := false, msixTable := [], configured := false, bar0At := 0, bar2At := 0, bar2 := 36, lists := [], copies := [],
    nextCopy := 0, ckpts := [], coreTests := [], verdicts := [], wedges := [], ends := [], stalled := false, hostData := [],
    hostEp := false, hostUr := false, aer := false }

/-! ### Faults -/

/-- A fault-history entry (R424); its CRC is computed. -/
structure HistEntry where
  num : W32
  kind : Nat
  source : Nat
  unit : Nat
  boot : Nat
  epoch : BitVec 48
  a : W64
  b : W32
deriving DecidableEq, Repr

/-- A management event (R434, R435, R501). -/
inductive MgmtEvent where
  | health (state : Nat)
  | history (e : HistEntry)
  | boot (bytes : List Byte)
  | sensor (id : Nat) (level : Nat)
  /-- The loss of the hall's boundaries, which firmware reports to the management controller too (R319). -/
  | timebase (mode hold : Nat)
deriving DecidableEq, Repr

/-- What SPDM offers, and its algorithms (R454). -/
inductive SpdmCap where
  | cert | chal
  /-- MEAS_CAP with signature. -/
  | measSig
deriving DecidableEq, Repr

inductive SpdmAlg where
  | rsassa4096 | sha512
deriving DecidableEq, Repr

/-- A response of the management port or of SPDM, in the terms of the spec. A reading is in W, in 1/64 °C and in
kHz for the sensors 1, 2 to 6 and 7 of R501. -/
inductive MgmtResp where
  | unsupported
  | pdr (record : Nat)
  | state (sensor value : Nat)
  | reading (sensor : Nat) (value : Int)
  | ok
  | failed
  | event (e : Option MgmtEvent)
  | base (command : Nat)
  | request (off len : Nat)
  | verifyFailed (reason : Nat)
  | deferred
  | activated
  | update (stage : Nat)
  | version
  | capabilities (caps : List SpdmCap)
  | algorithms (sign hash measHash : SpdmAlg)
  | digest (bytes : List Byte)
  /-- A portion of a certificate chain, and how many bytes of the chain follow it. -/
  | certificate (bytes : List Byte) (rest : Nat)
  /-- The number of measurement blocks, or blocks with their indices (R455). -/
  | count (n : Nat)
  | measurements (blocks : List (Nat × List Byte))
  | signed (bytes sig : List Byte)
  | address (dyn : BitVec 7)
  | idcode (w : W32)
deriving DecidableEq, Repr

structure FaultLog where
  /-- The blocks of the ring of each copy in the order in which they were begun, each with its entries (R423, R427). -/
  ring : List (List HistEntry)
  ring2 : List (List HistEntry)
  /-- Copies (1, 2) of entries, by NUM, that fail their CRC (R423). -/
  spoilt : List (Nat × W32)
  /-- Whether each flash write of an entry to come fails, in order (R426). -/
  writeFails : List Bool
  nextNum : W32
  queue : List MgmtEvent
  /-- The oldest event has been sent or returned, and may be acknowledged (R435). -/
  shown : Bool
  /-- SetEventReceiver has chosen asynchronous delivery, and the event that firmware sent last (R435). -/
  async : Bool
  sent : Option MgmtEvent
  /-- In-band interrupts are enabled, and how many were raised (R436). -/
  ibi : Bool
  ibiCount : Nat
  histFull : Bool
  histErr : Bool
  fatal : Bool
  fatalWhy : Nat
  /-- The health state last reported (R434). -/
  health : Nat
  /-- Threshold level last seen by each numeric sensor (R501). -/
  sensors : Tab Nat
  /-- The last response given. -/
  resp : MgmtResp
deriving DecidableEq, Repr

def FaultLog.reset : FaultLog :=
  { ring := [], ring2 := [], spoilt := [], writeFails := [], nextNum := 0, queue := [], shown := false, async := false,
    sent := none, ibi := false, ibiCount := 0, histFull := false,
    histErr := false, fatal := false, fatalWhy := 0, health := 1, sensors := [], resp := .ok }

/-! ### Boot, identity, life cycle -/

/-- What the fuses hold (R453). -/
structure Fuses where
  serial : W64
  keyHash : List Byte
  svnFloor : Nat
  idKill : Bool
deriving DecidableEq, Repr

/-- What the flash holds (R442). The fault history stands in the fault log. -/
structure Flash where
  /-- Image header and body; an erased byte reads 0xFF (R450). -/
  image : Tab Byte
  readable : Bool
  /-- The current calibration set, if one block's digest matches (R462, R464). -/
  cal : Option (List Byte)
  lcState : Nat
  lcPending : Bool
  lcTarget : Nat
  ownerKey : Option (List Byte)
  /-- An owner key that a pending transition installs (R460). -/
  newKey : Option (List Byte)
  boots : Nat
  chain : Option (List Byte)
deriving DecidableEq, Repr

/-- The resets of R437 that affect the whole device. -/
inductive ResetKind where
  | cold | warm | device
deriving DecidableEq, Repr

/-- A PLDM firmware update in progress (R451). -/
inductive UpdStage where
  | idle | learn | ready | download | verify | apply | applied
deriving DecidableEq, Repr

/-- The SPDM connection state of one transport (R456). -/
inductive SpdmState where
  | initial | version | capabilities | negotiated
deriving DecidableEq, Repr

structure Security where
  fuses : Fuses
  flash : Flash
  /-- SEC_BOOT.STAGE, REASON, SVN; SEC_IMGVER (R465). -/
  stage : Nat
  reason : Nat
  svn : Nat
  imgver : W32
  raise : Bool
  /-- KEY of the running image (R459), and its digest (R455). -/
  key : List Byte
  digest : List Byte
  nonce : W64
  /-- The calibration set in use; none for defaults (R464). -/
  cal : Option (List Byte)
  calChanged : Bool
  /-- The reset in progress or last made (R440). -/
  lastReset : ResetKind
  /-- Erase blocks already erased since entry to recovery mode (R450). -/
  erased : NSet
  /-- An accepted image waits to be booted (R450, R451). -/
  imageDue : Bool
  upd : UpdStage
  updSize : Nat
  updNext : Nat
  spdmMctp : SpdmState
  spdmMbx : SpdmState
  /-- The boot summary that firmware queued at this boot (R434, R455). -/
  summary : List Byte
deriving DecidableEq, Repr

def Security.reset : Security :=
  { fuses := ⟨0, [], 0, false⟩,
    flash := ⟨[], true, none, 0, false, 0, none, none, 0, none⟩,
    stage := 0, reason := 0, svn := 0, imgver := 0, raise := false, key := [], digest := [], nonce := 0, cal := none,
    calChanged := false, lastReset := .cold, erased := [], imageDue := false, upd := .idle, updSize := 0, updNext := 0,
    spdmMctp := .initial, spdmMbx := .initial, summary := [] }

/-! ### Pins, power, test port -/

/-- An output of R475. -/
inductive Drive where
  | released | low | high
deriving DecidableEq, Repr

structure Pins where
  readyN : Drive
  faultN : Drive
  alertN : Drive
  thermtripN : Drive
  epochOut : Drive
  pwrgood : Bool
  perstHigh : Bool
  recoveryN : Bool
  sa0 : Bool
  sa1 : Bool
  /-- RECOVERY_N as sampled at time 0 of the boot, low for true (R478). -/
  strap : Bool
  /-- The static address as sampled, and the dynamic address assigned (R478, R480). -/
  i3cStatic : BitVec 7
  i3cDyn : Option (BitVec 7)
  /-- The clocks run: not stopped by a power loss or a trip (R485, R491). -/
  clocks : Bool
  tripped : Bool
  /-- XSPI_RESET_N is low until this tick (R479). -/
  xspiUntil : Nat
deriving DecidableEq, Repr

def Pins.reset : Pins :=
  { readyN := .released, faultN := .released, alertN := .released, thermtripN := .released,
    epochOut := .released, pwrgood := true, perstHigh := true, recoveryN := true, sa0 := true, sa1 := true,
    strap := false, i3cStatic := 0x3B, i3cDyn := none, clocks := true, tripped := false, xspiUntil := 2500 }

/-- The power governor and the junction caps (R490, R493 to R496). -/
structure Power where
  level : Nat
  pendingLevel : Nat
  /-- Samples since the last application, newest first, at most 100 (R493). -/
  pe : List Nat
  /-- The latest 1,000 samples, newest first. -/
  p10 : List Nat
  caps : Tab Nat
  capsNext : Tab Nat
  /-- Sensor readings in 1/64 °C after calibration (R489, R500). -/
  sensors : Tab Int
  /-- Cycles of each cluster's clock since reset (R416, R492). -/
  cycles : Tab Nat
  hold : Bool
  /-- RUN has been set since reset (R495). -/
  everRun : Bool
deriving DecidableEq, Repr

def Power.reset : Power := ⟨36, 36, [], [], [], [], [], [], false, false⟩

/-- The instructions of the test port (R481). -/
inductive JtagOp where
  | bypass | idcode | sample | extest | highz | clamp
deriving DecidableEq, Repr

structure Jtag where
  op : JtagOp
  /-- The cells of the boundary register for the lands that the device drives, in the order of `drivenLands`. -/
  boundary : List Bool
  /-- The levels that the last SAMPLE captured, of those lands and then of `inputLands`. -/
  sample : List Bool
  dr : W32
deriving DecidableEq, Repr

def Jtag.reset : Jtag := ⟨.bypass, [], [], 0⟩

/-! ### The state -/

/-- The state of the block. `pending` is the queue of commands, first in first out. -/
structure State where
  pending : List Instr
  cores : Tab Core
  engines : Tab Engine
  pools : Tab Pool
  mem : Mem
  dramStacks : Tab Stack
  versions : Tab Version
  queues : Tab (List QTask)
  /-- Placed tasks that have not ended: placement number and SLOT (R227). -/
  live : List (Nat × Nat)
  nextTask : Nat
  sheaves : Tab W32
  steps : Tab StepSlot
  tb : Timebase
  pel : Pelvar
  ctl : Control
  fault : FaultLog
  sec : Security
  pins : Pins
  pwr : Power
  jtag : Jtag
  /-- Registers of the register windows that are stored as words: window × 0x10000 + offset. -/
  regs : Tab W64
  /-- The model's own counter that free values are drawn with; no rule of the spec. -/
  free : Nat
deriving DecidableEq, Repr

/-- Why a step stops with a fault. -/
inductive Fault where
  /-- Raised by no meaning: every cause the spec describes is taken as the spec says. Safe. -/
  | none
deriving DecidableEq, Repr

/-- Why a step is refused. -/
inductive Refusal where
  /-- A command whose meaning is not written yet, by its mnemonic. Safe. -/
  | notModelled (mnemonic : String)
deriving DecidableEq, Repr

/-- The machine right after a cold reset, at time 0 of its boot (R438, R446). -/
def State.reset : State :=
  { pending := [], cores := [], engines := [], pools := [], mem := Mem.reset, dramStacks := [], versions := [],
    queues := [], live := [], nextTask := 0, sheaves := [], steps := [], tb := Timebase.reset,
    pel := Pelvar.reset, ctl := Control.reset, fault := FaultLog.reset, sec := Security.reset, pins := Pins.reset,
    pwr := Power.reset, jtag := Jtag.reset, regs := [], free := 0 }

/-- The outcome of a command. -/
abbrev Out := Host.Outcome State Fault Refusal

end Sys2Proof.Machine
end

