-- ==== Sys2Proof/Machine/Num.lean ====
section
/-! DEFINITION. The fifteen formats (R35 to R44), rounding (R50 to R52, R64, R513), conversions (R61,
R62) and exact arithmetic on their values. -/

namespace Sys2Proof.Machine

/-! ### Formats -/

/-- The formats of R35. -/
inductive Fmt where
  | f64 | lf48 | f32 | f16 | bf16 | e4m3 | e5m2 | e3m2 | e2m3 | e2m1 | e8m0 | i32 | i16 | i8 | i4
deriving DecidableEq, Repr

/-- Width of an encoding (R35). -/
def Fmt.width : Fmt → Nat
  | .f64 => 64 | .lf48 => 48 | .f32 => 32 | .f16 => 16 | .bf16 => 16 | .e4m3 => 8 | .e5m2 => 8
  | .e3m2 => 6 | .e2m3 => 6 | .e2m1 => 4 | .e8m0 => 8 | .i32 => 32 | .i16 => 16 | .i8 => 8 | .i4 => 4

/-- Fraction bits (R35). -/
def Fmt.frac : Fmt → Nat
  | .f64 => 52 | .lf48 => 36 | .f32 => 23 | .f16 => 10 | .bf16 => 7 | .e4m3 => 3 | .e5m2 => 2
  | .e3m2 => 2 | .e2m3 => 3 | .e2m1 => 1 | .e8m0 => 0 | .i32 => 31 | .i16 => 15 | .i8 => 7 | .i4 => 3

/-- Exponent bias (R35). -/
def Fmt.bias : Fmt → Nat
  | .f64 => 1023 | .lf48 => 1023 | .f32 => 127 | .f16 => 15 | .bf16 => 127 | .e4m3 => 7 | .e5m2 => 15
  | .e3m2 => 3 | .e2m3 => 1 | .e2m1 => 1 | .e8m0 => 127 | .i32 => 0 | .i16 => 0 | .i8 => 0 | .i4 => 0

/-- Two's-complement formats. -/
def Fmt.isInt : Fmt → Bool
  | .i32 => true | .i16 => true | .i8 => true | .i4 => true
  | .f64 => false | .lf48 => false | .f32 => false | .f16 => false | .bf16 => false | .e4m3 => false
  | .e5m2 => false | .e3m2 => false | .e2m3 => false | .e2m1 => false | .e8m0 => false

/-- Formats with infinities and NaN by an exponent of all ones (R36). -/
def Fmt.hasInf : Fmt → Bool
  | .f64 => true | .lf48 => true | .f32 => true | .f16 => true | .bf16 => true | .e5m2 => true
  | .e4m3 => false | .e3m2 => false | .e2m3 => false | .e2m1 => false | .e8m0 => false | .i32 => false
  | .i16 => false | .i8 => false | .i4 => false

/-- Exponent bits of a floating-point format with a sign. -/
def Fmt.ebits (f : Fmt) : Nat := f.width - 1 - f.frac

/-- Significand width p. -/
def Fmt.prec (f : Fmt) : Nat := f.frac + 1

/-- Encoding of the largest finite value (R37). -/
def Fmt.maxEnc : Fmt → Nat
  | .f64 => 0x7FEFFFFFFFFFFFFF | .lf48 => 0x7FEFFFFFFFFF | .f32 => 0x7F7FFFFF | .f16 => 0x7BFF
  | .bf16 => 0x7F7F | .e4m3 => 0x7E | .e5m2 => 0x7B | .e3m2 => 0x1F | .e2m3 => 0x1F | .e2m1 => 0x7
  | .e8m0 => 0xFE | .i32 => 0x7FFFFFFF | .i16 => 0x7FFF | .i8 => 0x7F | .i4 => 0x7

/-- The canonical NaN (R37); the formats without one give +0 (R61). -/
def Fmt.nan : Fmt → Nat
  | .f64 => 0x7FF8000000000000 | .lf48 => 0x7FF800000000 | .f32 => 0x7FC00000 | .f16 => 0x7E00
  | .bf16 => 0x7FC0 | .e4m3 => 0x7F | .e5m2 => 0x7E | .e3m2 => 0 | .e2m3 => 0 | .e2m1 => 0
  | .e8m0 => 0xFF | .i32 => 0 | .i16 => 0 | .i8 => 0 | .i4 => 0

/-- The sign bit in place. -/
def Fmt.signBit (f : Fmt) (neg : Bool) : Nat := if neg then 2 ^ (f.width - 1) else 0

/-- Encoding of an infinity (R37). -/
def Fmt.infEnc (f : Fmt) (neg : Bool) : Nat := f.signBit neg + (2 ^ f.ebits - 1) * 2 ^ f.frac

/-- The value of an encoding (R36). -/
def Fmt.value (f : Fmt) (w : Nat) : XVal :=
  if f.isInt then
    let i := sint f.width w
    .fin (decide (i < 0)) i.natAbs 0
  else if f = .e8m0 then
    if w % 256 = 0xFF then .nan else .fin false 1 ((w % 256 : Nat) - 127)
  else
    let neg := w.testBit (f.width - 1)
    let e := (w >>> f.frac) % 2 ^ f.ebits
    let m := w % 2 ^ f.frac
    if f.hasInf && e == 2 ^ f.ebits - 1 then
      if m = 0 then .inf neg else .nan
    else if f = .e4m3 && e == 15 && m == 7 then .nan
    else if e = 0 then .fin neg m (1 - (f.bias : Int) - f.frac)
    else .fin neg (2 ^ f.frac + m) ((e : Int) - f.bias - f.frac)

/-- A signalling NaN (R39). -/
def Fmt.snan (f : Fmt) (w : Nat) : Bool :=
  f.hasInf && (w >>> f.frac) % 2 ^ f.ebits == 2 ^ f.ebits - 1 && w % 2 ^ f.frac != 0 && !w.testBit (f.frac - 1)

/-! ### Flags -/

/-- Flags in the positions of CORE_FPCSR [6:0] (R54). -/
abbrev Flags := BitVec 7

def flagNX : Flags := 0x01
def flagUF : Flags := 0x02
def flagOF : Flags := 0x04
def flagDZ : Flags := 0x08
def flagNV : Flags := 0x10
def flagEmpty : Flags := 0x20
def flagSAT : Flags := 0x40

/-- A flag under a condition. -/
def flagIf (b : Bool) (f : Flags) : Flags := if b then f else 0

/-! ### Rounding -/

/-- The rounding modes of R50; the stochastic one carries its 24 bits of sr_word (R64). -/
inductive Rnd where
  | rne | tz | up | down
  | sr (r : Nat)
deriving DecidableEq, Repr

/-- The mode that CORE_FPCSR.RM selects (R54). -/
def Rnd.ofRM : Nat → Rnd
  | 0 => .rne
  | 1 => .tz
  | 2 => .up
  | _ => .down

/-- `num` × 2^`exp` in whole units of 2^`q`, rounded, and whether that is inexact. -/
def roundAt (neg : Bool) (num : Nat) (exp q : Int) (m : Rnd) : Nat × Bool :=
  if q ≤ exp then (num <<< (exp - q).toNat, false)
  else
    let sh := (q - exp).toNat
    let lo := num >>> sh
    let rem := num % 2 ^ sh
    if rem = 0 then (lo, false)
    else
      let up := match m with
        | .rne => decide (2 * rem > 2 ^ sh) || (decide (2 * rem = 2 ^ sh) && lo % 2 == 1)
        | .tz => false
        | .up => !neg
        | .down => neg
        | .sr r => decide (r < (rem <<< 24) >>> sh)
      (if up then lo + 1 else lo, true)

/-- Exponent of the leading bit. -/
def floorLog2 (num : Nat) (exp : Int) : Int := (Nat.log2 num : Int) + exp

/-- A magnitude rounded into a floating-point format with a sign: encoding without its sign, flags, and
whether it lies above the largest finite value (R36, R40, R55). DESIGN CHOICE (log entry 120): under stochastic
rounding too, tininess after rounding is judged on the value rounded at an unbounded exponent, with the same 24-bit draw. -/
def roundMag (f : Fmt) (neg : Bool) (num : Nat) (exp : Int) (m : Rnd) : Nat × Flags × Bool :=
  if num = 0 then (0, 0, false)
  else
    let emin : Int := 1 - (f.bias : Int)
    let e := floorLog2 num exp
    let q := max e emin - f.frac
    let r := roundAt neg num exp q m
    -- The biased exponent of the unit: a carry out of the fraction moves into it.
    let base := (q + f.frac - emin).toNat
    let enc := if r.1 < 2 ^ f.frac then r.1 else base * 2 ^ f.frac + r.1
    let tiny :=
      if e < emin then
        let u := roundAt neg num exp (e - f.frac) m
        decide (floorLog2 u.1 (e - f.frac) < emin)
      else false
    (enc, flagIf r.2 flagNX ||| flagIf (r.2 && tiny) flagUF, decide (enc > f.maxEnc))

/-- Conversion of an exact value to a floating-point or integer format (R61, R513). `sn` says that the
value comes from a signalling NaN, `nosat` is CORE_FPCSR.NOSAT. -/
def Fmt.convert (f : Fmt) (x : XVal) (sn : Bool) (m : Rnd) (nosat : Bool) : Nat × Flags :=
  if f.isInt then
    let top := f.maxEnc
    let bot := 2 ^ (f.width - 1)
    match x with
    | .nan => (0, flagNV)
    | .inf neg => (if neg then bot else top, flagNV)
    | .fin neg num exp =>
      let r := roundAt neg num exp 0 m
      if neg && decide (r.1 > bot) then (bot, flagNV)
      else if !neg && decide (r.1 > top) then (top, flagNV)
      else (uint f.width (if neg then -(r.1 : Int) else r.1), flagIf r.2 flagNX)
  else if f = .e8m0 then
    match x with
    | .nan => (0xFF, flagNV)
    | .inf _ => (0xFF, 0)
    | .fin _ num exp =>
      if num = 0 then (0, flagSAT)
      else
        let c := floorLog2 num exp + 127
        if c < 0 then (0, flagSAT)
        else if c > 254 then (0xFE, flagSAT)
        else (c.toNat, flagIf (num != 2 ^ Nat.log2 num) flagNX)
  else
    match x with
    | .nan =>
      match f with
      | .e3m2 | .e2m3 | .e2m1 => (0, flagNV)
      | _ => (f.nan, flagIf sn flagNV)
    | .inf neg =>
      match f with
      | .e3m2 | .e2m3 | .e2m1 => (f.signBit neg + f.maxEnc, flagSAT)
      | .e4m3 => if nosat then (f.nan, flagNV) else (f.signBit neg + f.maxEnc, flagSAT)
      | _ => (f.infEnc neg, 0)
    | .fin neg num exp =>
      let r := roundMag f neg num exp m
      if r.2.2 then
        match f with
        | .e3m2 | .e2m3 | .e2m1 => (f.signBit neg + f.maxEnc, flagSAT)
        | .e4m3 => if nosat then (f.nan, flagOF ||| flagNX) else (f.signBit neg + f.maxEnc, flagSAT)
        | .e5m2 => if nosat then (f.infEnc neg, flagOF ||| flagNX) else (f.signBit neg + f.maxEnc, flagSAT)
        | _ =>
          let toInf := match m with
            | .rne => true
            | .sr _ => true
            | .tz => false
            | .up => !neg
            | .down => neg
          (if toInf then f.infEnc neg else f.signBit neg + f.maxEnc, flagOF ||| flagNX)
      else (f.signBit neg + r.1, r.2.1)

/-- Conversion between encodings (R61). -/
def convertEnc (src dst : Fmt) (w : Nat) (m : Rnd) (nosat : Bool) : Nat × Flags :=
  if src.isInt && dst.isInt then
    -- R62: an integer saturates to a narrower integer with SAT.
    let v := sint src.width w
    let top : Int := dst.maxEnc
    if v > top then (dst.maxEnc, flagSAT)
    else if v < -top - 1 then (2 ^ (dst.width - 1), flagSAT)
    else (uint dst.width v, 0)
  else dst.convert (src.value w) (src.snan w) m nosat

/-- LF48 widened to FP64 (R42). -/
def widenLf48 (w : Nat) : Nat := (w % 2 ^ 48) <<< 16

/-- FP64 narrowed to LF48 (R43). -/
def narrowLf48 (w : Nat) : Nat × Flags := convertEnc .f64 .lf48 w .rne false

/-- FP32 widened to FP64 as a bit move (R515). -/
def widenF32 (w : Nat) : Nat :=
  match Fmt.f32.value w with
  | .nan => Fmt.f64.signBit (w.testBit 31) + 0x7FF0000000000000 + (w % 2 ^ 23) * 2 ^ 29
  | .inf neg => Fmt.f64.infEnc neg
  | .fin neg num exp => (Fmt.f64.convert (.fin neg num exp) false .rne false).1

/-! ### Exact arithmetic -/

/-- A finite value as an integer in units of 2^`q`, `q` not above its exponent. -/
def scaled (neg : Bool) (num : Nat) (exp q : Int) : Int :=
  let n : Int := (num <<< (exp - q).toNat : Nat)
  if neg then -n else n

/-- Exact sum of two values; the sign of an exact zero is − only when both terms are −0, or under
rounding downwards when the terms differ (R52, R70). NV for opposite infinities. -/
def XVal.add (down : Bool) : XVal → XVal → XVal × Flags
  | .nan, _ => (.nan, 0)
  | _, .nan => (.nan, 0)
  | .inf a, .inf b => if a = b then (.inf a, 0) else (.nan, flagNV)
  | .inf a, .fin _ _ _ => (.inf a, 0)
  | .fin _ _ _, .inf b => (.inf b, 0)
  | .fin na a ea, .fin nb b eb =>
    let q := min ea eb
    let s := scaled na a ea q + scaled nb b eb q
    if s = 0 then
      let neg := if na = nb then na else down
      (.fin neg 0 q, 0)
    else (.fin (decide (s < 0)) s.natAbs q, 0)

/-- Negation. -/
def XVal.neg : XVal → XVal
  | .nan => .nan
  | .inf a => .inf (!a)
  | .fin n a e => .fin (!n) a e

/-- Magnitude. -/
def XVal.abs : XVal → XVal
  | .nan => .nan
  | .inf _ => .inf false
  | .fin _ a e => .fin false a e

def XVal.isNan : XVal → Bool
  | .nan => true
  | .inf _ => false
  | .fin _ _ _ => false

def XVal.isInf : XVal → Bool
  | .nan => false
  | .inf _ => true
  | .fin _ _ _ => false

def XVal.isZero : XVal → Bool
  | .nan => false
  | .inf _ => false
  | .fin _ a _ => a == 0

/-- Exact product; NV for 0 × ∞. -/
def XVal.mul : XVal → XVal → XVal × Flags
  | .nan, _ => (.nan, 0)
  | _, .nan => (.nan, 0)
  | .inf a, .inf b => (.inf (a != b), 0)
  | .inf a, .fin n b _ => if b = 0 then (.nan, flagNV) else (.inf (a != n), 0)
  | .fin n a _, .inf b => if a = 0 then (.nan, flagNV) else (.inf (n != b), 0)
  | .fin na a ea, .fin nb b eb => (.fin (na != nb) (a * b) (ea + eb), 0)

/-- Quotient to at least `p` bits, the last of them sticky, so that it rounds as the exact quotient
does to fewer; DZ and NV by IEEE 754. -/
def XVal.div (p : Nat) : XVal → XVal → XVal × Flags
  | .nan, _ => (.nan, 0)
  | _, .nan => (.nan, 0)
  | .inf _, .inf _ => (.nan, flagNV)
  | .inf a, .fin n _ _ => (.inf (a != n), 0)
  | .fin n _ _, .inf b => (.fin (n != b) 0 0, 0)
  | .fin na a ea, .fin nb b eb =>
    if b = 0 then
      if a = 0 then (.nan, flagNV) else (.inf (na != nb), flagDZ)
    else if a = 0 then (.fin (na != nb) 0 0, 0)
    else
      let k := p + Nat.log2 b + 2
      let n := a <<< k
      (.fin (na != nb) (2 * (n / b) + b1 (n % b != 0)) (ea - eb - k - 1), 0)

/-- One bit of an integer square root. -/
def sqrtStep (n r i : Nat) : Nat :=
  let c := r + 2 ^ i
  if c * c ≤ n then c else r

/-- The integer square root of a number below 2^(2 × `bits`). -/
def isqrt (n : Nat) : Nat → Nat → Nat
  | 0, r => r
  | i + 1, r => isqrt n i (sqrtStep n r i)

/-- Square root to at least `p` bits, the last sticky; NV below −0. -/
def XVal.sqrt (p : Nat) : XVal → XVal × Flags
  | .nan => (.nan, 0)
  | .inf neg => if neg then (.nan, flagNV) else (.inf false, 0)
  | .fin neg a e =>
    if a = 0 then (.fin neg 0 0, 0)
    else if neg then (.nan, flagNV)
    else
      let k := 2 * (p + 2) + (e % 2).toNat
      let n := a <<< k
      let r := isqrt n (Nat.log2 n / 2 + 1) 0
      (.fin false (2 * r + b1 (r * r != n)) ((e - k) / 2 - 1), 0)

/-- Exact order of two values that are no NaN. -/
def XVal.cmp : XVal → XVal → Ordering
  | .nan, _ => .eq
  | _, .nan => .eq
  | .inf a, .inf b => if a = b then .eq else if a then .lt else .gt
  | .inf a, .fin _ _ _ => if a then .lt else .gt
  | .fin _ _ _, .inf b => if b then .gt else .lt
  | .fin na a ea, .fin nb b eb =>
    let q := min ea eb
    compare (scaled na a ea q) (scaled nb b eb q)

def XVal.lt (x y : XVal) : Bool := x.cmp y == .lt

/-- Below, with +0 above −0 (R74, R89). -/
def XVal.below (x y : XVal) : Bool :=
  match x.cmp y with
  | .lt => true
  | .gt => false
  | .eq => match x, y with
    | .fin nx a _, .fin ny _ _ => a == 0 && nx && !ny
    | _, _ => false

/-! ### Rounded arithmetic (R52) -/

/-- Result of an operation: NV for signalling operands, then the rounding into `f`. -/
def finish (f : Fmt) (m : Rnd) (sn : Bool) (r : XVal × Flags) : Nat × Flags :=
  let c := f.convert r.1 false m false
  (c.1, c.2 ||| r.2 ||| flagIf sn flagNV)

def Rnd.isDown (m : Rnd) : Bool := m == .down

def fpAdd (f : Fmt) (m : Rnd) (a b : Nat) : Nat × Flags :=
  finish f m (f.snan a || f.snan b) ((f.value a).add m.isDown (f.value b))

def fpSub (f : Fmt) (m : Rnd) (a b : Nat) : Nat × Flags :=
  finish f m (f.snan a || f.snan b) ((f.value a).add m.isDown (f.value b).neg)

def fpMul (f : Fmt) (m : Rnd) (a b : Nat) : Nat × Flags :=
  finish f m (f.snan a || f.snan b) ((f.value a).mul (f.value b))

def fpDiv (f : Fmt) (m : Rnd) (a b : Nat) : Nat × Flags :=
  finish f m (f.snan a || f.snan b) ((f.value a).div (f.prec + 2) (f.value b))

def fpSqrt (f : Fmt) (m : Rnd) (a : Nat) : Nat × Flags :=
  finish f m (f.snan a) ((f.value a).sqrt (f.prec + 2))

/-- acc + a × b rounded once; 0 × ∞ raises NV and gives NaN whatever the addend (R52). -/
def fpFma (f : Fmt) (m : Rnd) (negProd : Bool) (acc a b : Nat) : Nat × Flags :=
  let p := (f.value a).mul (f.value b)
  let p1 := if negProd then p.1.neg else p.1
  let s := p1.add m.isDown (f.value acc)
  finish f m (f.snan a || f.snan b || f.snan acc) (s.1, s.2 ||| p.2)

/-- Minimum and maximum: exact, NaN for any NaN, +0 above −0 (R74, R89). NV for a signalling NaN. -/
def fpMin (f : Fmt) (a b : Nat) : Nat × Flags :=
  let x := f.value a
  let y := f.value b
  if x.isNan || y.isNan then (f.nan, flagIf (f.snan a || f.snan b) flagNV)
  else (if y.below x then b else a, 0)

def fpMax (f : Fmt) (a b : Nat) : Nat × Flags :=
  let x := f.value a
  let y := f.value b
  if x.isNan || y.isNan then (f.nan, flagIf (f.snan a || f.snan b) flagNV)
  else (if x.below y then b else a, 0)

/-- Comparisons of R89: equal is quiet, the others raise NV on any NaN. -/
def fpEq (f : Fmt) (a b : Nat) : Bool × Flags :=
  let x := f.value a
  let y := f.value b
  if x.isNan || y.isNan then (false, flagIf (f.snan a || f.snan b) flagNV)
  else (x.cmp y == .eq, 0)

def fpLt (f : Fmt) (a b : Nat) : Bool × Flags :=
  let x := f.value a
  let y := f.value b
  if x.isNan || y.isNan then (false, flagNV) else (x.cmp y == .lt, 0)

def fpLe (f : Fmt) (a b : Nat) : Bool × Flags :=
  let x := f.value a
  let y := f.value b
  if x.isNan || y.isNan then (false, flagNV) else (x.cmp y != .gt, 0)

/-- A significand rounded to nearest-even at `p` bits, the exponent unbounded (R68), and whether that
is inexact. -/
def roundSig (p : Nat) (x : XVal) : XVal × Bool :=
  match x with
  | .nan => (.nan, false)
  | .inf n => (.inf n, false)
  | .fin neg num exp =>
    if Nat.log2 num + 1 ≤ p then (x, false)
    else
      let q := exp + (Nat.log2 num + 1 - p : Nat)
      let r := roundAt neg num exp q .rne
      (.fin neg r.1 q, r.2)

/-! ### Stochastic rounding (R64) -/

def srMix (z : W64) : W64 :=
  let z := (z ^^^ (z >>> 31)) * 0xB8D35A4F21E79C6B
  let z := (z ^^^ (z >>> 29)) * 0x8E4F17C3D5A96B2D
  z ^^^ (z >>> 32)

def srWord (seed : W64) (task : W32) (index : W64) : W64 :=
  srMix (srMix (srMix seed ^^^ task.setWidth 64) ^^^ index)

/-- The rounding of the element with this index. -/
def srRnd (seed : W64) (task : W32) (index : W64) : Rnd := .sr (srWord seed task index >>> 40).toNat

/-! ### Scales (R45 to R49) -/

/-- Exponent of the largest normal of an element format. -/
def Fmt.emax : Fmt → Int
  | .e4m3 => 8 | .e5m2 => 15 | .e3m2 => 4 | .e2m3 => 2 | .e2m1 => 2
  | .f64 => 1023 | .lf48 => 1023 | .f32 => 127 | .f16 => 15 | .bf16 => 127 | .e8m0 => 127
  | .i32 => 31 | .i16 => 15 | .i8 => 7 | .i4 => 3

/-- scale_code of R48. -/
def scaleCode (a : XVal) (fe : Fmt) : Nat × Flags :=
  match a with
  | .nan => (0xFF, 0)
  | .inf _ => (0xFF, 0)
  | .fin _ num exp =>
    if num = 0 then (0x7F, 0)
    else
      let e := floorLog2 num exp - fe.emax
      if e < -127 then (0, flagSAT)
      else if e > 127 then (254, flagSAT)
      else ((e + 127).toNat, 0)

/-- A value times a power of two. -/
def XVal.scale (x : XVal) (k : Int) : XVal :=
  match x with
  | .nan => .nan
  | .inf n => .inf n
  | .fin n a e => .fin n a (e + k)

/-- The exponent of a scale code, none for NaN (R45). -/
def scaleExp (c : Nat) : Option Int := if c % 256 = 0xFF then none else some ((c % 256 : Nat) - 127)

/-- The code that vquant and vscale derive from an encoding; a signalling NaN raises NV (R39, R48). -/
def scaleOf (src : Fmt) (w : Nat) (fe : Fmt) : Nat × Flags :=
  let r := scaleCode (src.value w) fe
  (r.1, r.2 ||| flagIf (src.snan w) flagNV)

/-- The element conversion of vquant under a scale code (R49): a magnitude above the largest finite value saturates
and raises no flag, NOSAT plays no part. -/
def quantElem (src fe : Fmt) (w : Nat) (c : Nat) (m : Rnd) : Nat × Flags :=
  match scaleExp c with
  | none => (0, 0)
  | some k =>
    match src.value w with
    | .inf n => (fe.signBit n + fe.maxEnc, 0)
    | .nan => fe.convert .nan (src.snan w) m false
    | .fin n num exp =>
      if (fe.value fe.maxEnc).below (.fin false num (exp - k)) then (fe.signBit n + fe.maxEnc, 0)
      else fe.convert (.fin n num (exp - k)) false m false

end Sys2Proof.Machine
end

