-- ==== Sys2Proof/Machine/RefOrder.lean ====
section
/-! DEFINITION. The reference order: block trees, dot products, reductions (R67 to R76). -/

namespace Sys2Proof.Machine

/-- Accumulators of R67. -/
inductive Acc where
  | f32 | f64 | lf48 | i32
deriving DecidableEq, Repr

/-- The format in which an accumulator's value is held; LF48 is held as FP64 (R67). -/
def Acc.hold : Acc → Fmt
  | .f32 => .f32
  | .f64 => .f64
  | .lf48 => .f64
  | .i32 => .i32

/-- Significand width p of R67. -/
def Acc.prec : Acc → Nat
  | .f32 => 24
  | .f64 => 53
  | .lf48 => 37
  | .i32 => 32

/-- How the nodes of a tree are rounded: none for exact, or the number of bits (R67, R68). -/
def nodeBits (fi : Fmt) (fa : Acc) : Option Nat :=
  match fa with
  | .i32 => none
  | _ => if fi.width ≤ 16 then none else some (fa.prec + 3)

/-- One node (R68). -/
def node (nb : Option Nat) (x y : XVal × Flags) : XVal × Flags :=
  let z := (x.1.add false y.1).1
  match nb with
  | none => (z, x.2 ||| y.2)
  | some p =>
    let r := roundSig p z
    (r.1, x.2 ||| y.2 ||| flagIf r.2 flagNX)

/-- One level of the tree. -/
def level (nb : Option Nat) : List (XVal × Flags) → List (XVal × Flags)
  | x :: y :: t => node nb x y :: level nb t
  | [x] => [x]
  | [] => []

/-- +0. -/
def posZero : XVal := .fin false 0 0

/-- A list cut or padded to `n` values. -/
def padTo {α : Type} (d : α) (n : Nat) (l : List α) : List α := l.take n ++ List.replicate (n - l.length) d

/-- The sum of a block of 32 products (R68); NX of its nodes. -/
def blockTree (nb : Option Nat) (ps : List XVal) : XVal × Flags :=
  let l0 := (padTo posZero 32 ps).map fun x => (x, (0 : Flags))
  ((level nb (level nb (level nb (level nb (level nb l0)))))).headD (posZero, 0)

/-- The value of a block with its scale: NaN and infinities first (R69), then the tree. -/
def blockValue (nb : Option Nat) (ps : List XVal) (sc : Option Int) : XVal × Flags :=
  match sc with
  | none => (.nan, flagNV)
  | some k =>
    if ps.any XVal.isNan then (.nan, flagNV)
    else
      let pos := ps.any fun p => p == .inf false
      let neg := ps.any fun p => p == .inf true
      if pos && neg then (.nan, flagNV)
      else if pos then (.inf false, 0)
      else if neg then (.inf true, 0)
      else
        let s := blockTree nb ps
        (s.1.scale k, s.2)

/-- Step 4: a block value added to an accumulator (R68, R62). -/
def accumulate (fa : Acc) (acc : Nat) (s : XVal) : Nat × Flags :=
  match fa with
  | .i32 =>
    match s with
    | .fin neg num exp => (uint 32 (sint 32 acc + scaled neg num exp (min exp 0) / (2 ^ (-(min exp 0)).toNat : Nat)), 0)
    | _ => (acc, 0)
  | _ =>
    let h := fa.hold
    let r := (h.value acc).add false s
    let c := match fa with
      | .lf48 =>
        let c := Fmt.lf48.convert r.1 false .rne false
        (widenLf48 c.1, c.2)
      | _ => h.convert r.1 false .rne false
    (c.1, c.2 ||| r.2 ||| flagIf (h.snan acc) flagNV)

/-- Products of two lists, element by element (step 1). 0 × ∞ gives NaN (R69). -/
def products : List XVal → List XVal → List XVal
  | a :: s, b :: t => (a.mul b).1 :: products s t
  | _, _ => []

/-- The values of the blocks of a dot product with their scales, `n` blocks from block `j` on (steps 2 and 3). -/
def blockValues (nb : Option Nat) (sc : Nat → Option Int) : Nat → Nat → List XVal → List (XVal × Flags)
  | 0, _, _ => []
  | n + 1, j, ps => blockValue nb (ps.take 32) (sc j) :: blockValues nb sc n (j + 1) (ps.drop 32)

/-- Blocks added into an accumulator in ascending order (steps 4 and 5). -/
def addBlocks (fa : Acc) (acc : Nat) (bs : List (XVal × Flags)) : Nat × Flags :=
  bs.foldl (fun (r : Nat × Flags) b =>
    let a := accumulate fa r.1 b.1
    (a.1, r.2 ||| b.2 ||| a.2)) (acc, 0)

/-- dot_ref (R68): accumulator, products and the exponent of the product of the two scales of a block. -/
def dotRef (fi : Fmt) (fa : Acc) (acc : Nat) (ps : List XVal) (sc : Nat → Option Int) : Nat × Flags :=
  addBlocks fa acc (blockValues (nodeBits fi fa) sc ((ps.length + 31) / 32) 0 ps)

/-- No scales (R45). -/
def noScale : Nat → Option Int := fun _ => some 0

/-- Accumulator of a sum reduction of elements of a format (R73, R76). -/
def sumAcc (f : Fmt) : Acc :=
  match f with
  | .f64 => .f64
  | .lf48 => .f64
  | .i32 => .i32
  | .i16 => .i32
  | .i8 => .i32
  | .i4 => .i32
  | _ => .f32

/-- Maximum of magnitudes over active elements (R47). -/
def amax (f : Fmt) (l : List (Nat × Bool)) : Nat × Flags :=
  let act := l.filter fun p => p.2
  let sn := act.any fun p => f.snan p.1
  if act.any fun p => (f.value p.1).isNan then (f.nan, flagIf sn flagNV)
  else
    let mag := fun w => w % 2 ^ (f.width - 1)
    -- Magnitudes order as their encodings do.
    (act.foldl (fun m p => if mag p.1 > m then mag p.1 else m) 0, 0)

/-- Exact maximum or minimum of values that take part (R74). -/
def extreme (f : Fmt) (isMax : Bool) (init : Nat) (l : List Nat) : Nat × Flags :=
  if f.isInt then
    (l.foldl (fun m w =>
      if isMax then (if sint f.width w > sint f.width m then w else m)
      else (if sint f.width w < sint f.width m then w else m)) init, 0)
  else
    let all := init :: l
    let sn := all.any fun w => f.snan w
    if all.any fun w => (f.value w).isNan then (f.nan, flagIf sn flagNV)
    else
      (l.foldl (fun m w => if isMax then (fpMax f m w).1 else (fpMin f m w).1) init, 0)

end Sys2Proof.Machine
end

