-- ==== Sys2Proof/Config.lean ====
section
/-! DEFINITION. Counts that the spec fixes for the part, and the free values: constants without a body for
what the spec leaves open. A free value that may differ each time is applied to the model's own counter. -/

namespace Sys2Proof.Config

/-! ### Counts (R20, R27, R28, R34) -/

def cores : Nat := 96
def engines : Nat := 768
def clusters : Nat := 24
def dramStacks : Nat := 32
def ports : Nat := 16
def mailboxes : Nat := 32
def sheaves : Nat := 4096
def versions : Nat := 16
def stepSlots : Nat := 16
def eventSlots : Nat := 64
def trackers : Nat := 4096
/-- The end of visible memory (R293). -/
def memTop : Nat := 0x017400000000

/-! ### Free values -/

/-- A 64-bit value that nothing constrains, drawn with the model's counter. -/
opaque freeValue : Nat → W64

/-- The set of a slice that a line maps to: R259 gives the number of sets and no mapping. -/
opaque llcSet : Nat → Nat

/-- The set of an L1 that a line maps to: R256 gives the number of sets and no mapping. -/
opaque l1Set : Nat → Nat

/-- The way that the pseudo-LRU of an L1 gives up (R256): counter, line. -/
opaque l1Victim : Nat → Nat → Nat

/-- Which of several eligible things is taken where no rule chooses: a tracker's tag (R336). -/
opaque pick : Nat → Nat

/-- Whether an access uses a translation cached earlier (R254): counter, page. -/
opaque useCached : Nat → Nat → Bool

/-- gelu and silu at −∞, for which no result is stated (R140): function code and width of the format. -/
opaque funAtNegInf : Nat → Nat → Nat

/-- The rounding of an elementary function whose neighbours 6,000 bits do not separate (R53):
function code, width of the format, encoding of the operand. No such operand is known. -/
opaque funUnresolved : Nat → Nat → Nat → Nat

/-- Bytes of a COL packet's payload as they differ from the model's own encoding of node values, for which no encoding is
stated (R355): element format, place in the payload. -/
opaque colMask : Nat → Nat → Byte

/-- How many node values a COL packet carries: element format. -/
opaque colChunk : Nat → Nat

/-- The modulus of the identity key pair in the fuses (R453), big-endian: the part's own. -/
opaque identityKey : List Byte

/-- A signature by the identity private key (R453, R454), whose salt differs each time: counter, message. -/
opaque identitySign : Nat → List Byte → List Byte

/-- The modulus of the leaf of a certificate chain, whose form is that of other standards (R454, R458). -/
opaque chainLeaf : List Byte → List Byte

/-- The bytes of an SPDM or PLDM message whose form is that of other standards: counter. -/
opaque messageBytes : Nat → List Byte

/-- The copies (1, 2) of history entries, by NUM, that the flash holds with a failing CRC when firmware starts (R423):
counter. -/
opaque flashSpoilt : Nat → List (Nat × BitVec 32)

/-- Which of the writes of the history to come the flash fails, in order (R426): counter. -/
opaque flashFails : Nat → List Bool

/-- Lanfoit's Vendor ID (R373), for which no value is stated. -/
opaque vendorId : BitVec 16

/-- Lanfoit's manufacturer identity in IDCODE (R481), for which no value is stated. -/
opaque manufacturer : BitVec 11

end Sys2Proof.Config
end

