-- ==== Sys2Proof/Machine/Base.lean ====
section
/-! DEFINITION. Access to the parts of the state: cores and their registers, engines, stacks, versions and
the stored words of the register windows. -/

namespace Sys2Proof.Machine

/-! ### Units -/

def State.core (s : State) (n : Nat) : Core := Tab.get Core.reset s.cores n
def State.setCore (s : State) (n : Nat) (c : Core) : State := { s with cores := Tab.set Core.reset s.cores n c }
def State.updCore (s : State) (n : Nat) (f : Core → Core) : State := s.setCore n (f (s.core n))

def State.eng (s : State) (n : Nat) : Engine := Tab.get Engine.reset s.engines n
def State.setEng (s : State) (n : Nat) (e : Engine) : State :=
  { s with engines := Tab.set Engine.reset s.engines n e }
def State.updEng (s : State) (n : Nat) (f : Engine → Engine) : State := s.setEng n (f (s.eng n))

def State.pool (s : State) (n : Nat) : Pool := Tab.get Pool.reset s.pools n
def State.setPool (s : State) (n : Nat) (p : Pool) : State := { s with pools := Tab.set Pool.reset s.pools n p }

def State.stack (s : State) (n : Nat) : Stack := Tab.get Stack.reset s.dramStacks n
def State.setStack (s : State) (n : Nat) (p : Stack) : State :=
  { s with dramStacks := Tab.set Stack.reset s.dramStacks n p }

def State.ver (s : State) (n : Nat) : Version := Tab.get Version.reset s.versions n
def State.setVer (s : State) (n : Nat) (v : Version) : State :=
  { s with versions := Tab.set Version.reset s.versions n v }
def State.updVer (s : State) (n : Nat) (f : Version → Version) : State := s.setVer n (f (s.ver n))

def State.queue (s : State) (n : Nat) : List QTask := Tab.get [] s.queues n
def State.setQueue (s : State) (n : Nat) (q : List QTask) : State := { s with queues := Tab.set [] s.queues n q }

def State.sheaf (s : State) (n : Nat) : W32 := Tab.get 0 s.sheaves n
def State.setSheaf (s : State) (n : Nat) (v : W32) : State := { s with sheaves := Tab.set 0 s.sheaves n v }

def State.stepSlot (s : State) (n : Nat) : StepSlot := Tab.get StepSlot.reset s.steps n
def State.setStepSlot (s : State) (n : Nat) (v : StepSlot) : State :=
  { s with steps := Tab.set StepSlot.reset s.steps n v }

def State.mb (s : State) (n : Nat) : Mailbox := Tab.get Mailbox.reset s.ctl.mailboxes n
def State.setMb (s : State) (n : Nat) (m : Mailbox) : State :=
  { s with ctl := { s.ctl with mailboxes := Tab.set Mailbox.reset s.ctl.mailboxes n m } }

def State.port (s : State) (n : Nat) : Port := Tab.get Port.reset s.pel.ports n
def State.setPort (s : State) (n : Nat) (p : Port) : State :=
  { s with pel := { s.pel with ports := Tab.set Port.reset s.pel.ports n p } }

/-- The die of a core, its device-wide cluster and its place in it (R20). -/
def coreDie (n : Nat) : Nat := n / 48
def coreCluster (n : Nat) : Nat := n / 4
def coreCic (n : Nat) : Nat := n % 4

/-- All cores, and those for which a test holds. -/
def allCores : List Nat := List.range Config.cores

/-- Change every core. -/
def State.mapCores (s : State) (f : Nat → Core → Core) : State :=
  allCores.foldl (fun s n => s.updCore n (f n)) s

/-- Draw a free value: the counter moves on. -/
def State.draw (s : State) : State := { s with free := s.free + 1 }

/-! ### Core registers (R80, R93) -/

def nSTATUS : Nat := 0x010
def nFPCSR : Nat := 0x001
def nCAUSE : Nat := 0x011
def nTVAL : Nat := 0x012
def nPROGRESS : Nat := 0x013
def nSLIM : Nat := 0x018
def nMSP : Nat := 0x023
def nPTB : Nat := 0x028
def nVCTRL : Nat := 0x100
def nMXCTRL : Nat := 0x300
def nL1CTRL : Nat := 0x400

/-- Reset values of the stored core registers (R94, R102, R122, R215, R221, R274, R502). -/
def cregReset (n : Nat) : W64 :=
  if n = 0x010 then 0x3
  else if n = 0x023 then 0x7F0000004000
  else if n = 0x043 then 0x3
  else if n = 0x300 then 0x700
  else if n = 0x400 then 0x411
  else if n = 0x500 then 0x1
  else if 0x508 ≤ n ∧ n ≤ 0x50F then 0x300000
  else 0

def Arch.cr (a : Arch) (n : Nat) : W64 := Tab.get (cregReset n) a.creg n
def Arch.setCr (a : Arch) (n : Nat) (v : W64) : Arch := { a with creg := Tab.set (cregReset n) a.creg n v }

/-- g0 reads as zero (R80). -/
def Arch.rg (a : Arch) (n : Nat) : W64 := if n = 0 then 0 else Tab.get 0 a.g n
/-- Writes to g0 are discarded (R80). -/
def Arch.setG (a : Arch) (n : Nat) (v : W64) : Arch := if n = 0 then a else { a with g := Tab.set 0 a.g n v }
def Arch.rf (a : Arch) (n : Nat) : W64 := Tab.get 0 a.f n
def Arch.setF (a : Arch) (n : Nat) (v : W64) : Arch := { a with f := Tab.set 0 a.f n v }
def Arch.rv (a : Arch) (n : Nat) : VReg := Tab.get 0 a.v n
def Arch.setV (a : Arch) (n : Nat) (v : VReg) : Arch := { a with v := Tab.set 0 a.v n v }
/-- k0 reads as all ones (R120). -/
def Arch.rk (a : Arch) (n : Nat) : KReg := if n = 0 then BitVec.allOnes 8192 else Tab.get 0 a.k n
/-- Writes to k0 are discarded (R120). -/
def Arch.setK (a : Arch) (n : Nat) (v : KReg) : Arch := if n = 0 then a else { a with k := Tab.set 0 a.k n v }
/-- A Sorrel row; an empty one reads as zeros (R134). -/
def Arch.row (a : Arch) (n : Nat) : VReg := (Tab.get none a.sorrel n).getD 0
def Arch.setRow (a : Arch) (n : Nat) (v : VReg) : Arch := { a with sorrel := Tab.set none a.sorrel n (some v) }
def Arch.tile (a : Arch) (n : Nat) : Tile := Tab.get Tile.reset a.tiles n
def Arch.setTile (a : Arch) (n : Nat) (t : Tile) : Arch := { a with tiles := Tab.set Tile.reset a.tiles n t }

def Core.cr (c : Core) (n : Nat) : W64 := c.arch.cr n
def Core.setCr (c : Core) (n : Nat) (v : W64) : Core := { c with arch := c.arch.setCr n v }

/-- Level of a core: 0 U, 1 S, 3 M (R92). -/
def Core.pl (c : Core) : Nat := (c.cr nSTATUS).toNat % 4
/-- CORE_STATUS.IE. -/
def Core.ie (c : Core) : Bool := (c.cr nSTATUS).toNat.testBit 2
/-- CORE_STATUS.SPEC. -/
def Core.spec (c : Core) : Bool := (c.cr nSTATUS).toNat.testBit 3
/-- CORE_STATUS.NEST. -/
def Core.nest (c : Core) : Nat := W64.fld (c.cr nSTATUS) 23 16

/-- A change made to the registers as they stand and to every older snapshot of them (R110). -/
def Core.mapArch (c : Core) (f : Arch → Arch) : Core :=
  { c with arch := f c.arch, tops := c.tops.map fun o => { o with snap := f o.snap } }

/-- CORE_STATUS.SPEC set on the registers and on every snapshot. -/
def Core.setSpec (c : Core) (b : Bool) : Core :=
  c.mapArch fun a => a.setCr nSTATUS (W64.setFld (a.cr nSTATUS) 3 3 (b1 b))

/-- The version that holds the stores of a core: SPEC is 1 and the level is U or S (R234). -/
def Core.heldVer (c : Core) : Option Nat :=
  if c.spec && decide (c.pl ≠ 3) then c.task.map fun t => t.q.d.version else none

/-- CORE_TASK.ACTIVE. -/
def Core.active (c : Core) : Bool := c.task.isSome

/-- Whether a core executes instructions. -/
def Core.runs (c : Core) : Bool := c.mode == .running && !c.retired && !c.resetting

/-! ### Stored words of the register windows (R379) -/

def wMX : Nat := 0x00000
def wLLC : Nat := 0x10000
def wMEM : Nat := 0x20000
def wTB : Nat := 0x30000
def wPEL : Nat := 0x40000
def wSEC : Nat := 0x50000
def wPERF : Nat := 0x60000
def wMBX : Nat := 0x70000

/-- Reset values of the stored words (R289, R331, R362, R508). -/
def regReset (a : Nat) : W64 :=
  if a = wLLC + 0x0000 then 1
  else if a = wLLC + 0x0008 then 0x300000
  else if a = wTB + 0x0000 then 0x190000
  else if a = wTB + 0x0020 then 0x3D090
  else if a = wPEL + 0x0000 then 0xFFFF
  else if a = wPEL + 0x0008 then 0x102
  else if a = wPEL + 0x0010 then 0x61A8
  else if a = wPEL + 0x0030 then 0xFFFF000000000000
  else if wPEL + 0x400 ≤ a ∧ a < wPEL + 0x500 ∧ a % 16 = 0 then 0x4
  else if a = wPERF + 0x0000 then 1
  else if a = wMBX + 0x0100 then 0x24000BB8
  else 0

def State.reg (s : State) (a : Nat) : W64 := Tab.get (regReset a) s.regs a
def State.setReg (s : State) (a : Nat) (v : W64) : State := { s with regs := Tab.set (regReset a) s.regs a v }

/-- A field of a stored word. -/
def State.regF (s : State) (a hi lo : Nat) : Nat := W64.fld (s.reg a) hi lo

/-- Set bits of a stored word. -/
def State.orReg (s : State) (a : Nat) (v : W64) : State := s.setReg a (s.reg a ||| v)

/-- Add to a counter field, saturating at all ones. -/
def State.bump (s : State) (a hi lo k : Nat) : State :=
  let top := 2 ^ (hi + 1 - lo) - 1
  s.setReg a (W64.setFld (s.reg a) hi lo (min top (s.regF a hi lo + k)))

/-! ### Numbers of the timebase -/

def State.epoch (s : State) : BitVec 48 := s.tb.epoch

/-- TB_CTRL fields. -/
def State.tbRun (s : State) : Bool := (s.reg wTB).toNat.testBit 4
def State.tbTol (s : State) : Nat := s.regF wTB 23 16

end Sys2Proof.Machine
end

