-- ==== Sys2Proof/Machine/Perf.lean ====
section
/-! DEFINITION. Counting of the events that commands bring about (R502 to R510). -/

namespace Sys2Proof.Machine

/-- Whether the counters of a core run (R502, R503). -/
def Core.counts (c : Core) : Bool := c.runs && (c.cr 0x500).toNat.testBit 0

/-- The bit of PERF_SELn.LVL for a level (R502). -/
def lvlBit (pl : Nat) : Nat := if pl = 3 then 2 else pl % 2

/-- Add to counter `n` of a core. -/
def Core.bumpCnt (c : Core) (n k : Nat) : Core := c.setCr (0x510 + n) (c.cr (0x510 + n) + BitVec.ofNat 64 k)

/-- Count `k` events of a code on a core (R507). -/
def Core.count (c : Core) (code k : Nat) : Core :=
  if !c.counts then c
  else (List.range 8).foldl (fun c n =>
    let sel := (c.cr (0x508 + n)).toNat
    if sel % 256 = code ∧ (sel >>> 20).testBit (lvlBit c.pl) then c.bumpCnt n k else c) c

/-- An instruction completes: PERF_INST counts under PERF_SEL0.LVL (R503). -/
def Core.countInst (c : Core) : Core :=
  if c.counts ∧ ((c.cr 0x508).toNat >>> 20).testBit (lvlBit c.pl) then c.setCr 0x521 (c.cr 0x521 + 1) else c

def State.countCore (s : State) (n code k : Nat) : State := s.updCore n fun c => c.count code k

/-- Count an engine event: the core that owns the engine, whichever level (R507). -/
def State.countEng (s : State) (eng code k : Nat) : State :=
  s.updCore (eng / 8) fun c =>
    if !c.counts then c
    else (List.range 8).foldl (fun c n =>
      let sel := (c.cr (0x508 + n)).toNat
      if sel % 256 = code ∧ (sel >>> 16) % 8 = eng % 8 then c.bumpCnt n k else c) c

/-- Count `k` device events of a code at a unit (R508 to R510). -/
def State.countDev (s : State) (code unit k : Nat) : State :=
  if !(s.reg wPERF).toNat.testBit 0 then s
  else (List.range 32).foldl (fun s n =>
    let sel := (s.reg (wPERF + 0x100 + 8 * n)).toNat
    if sel % 256 = code ∧ (sel >>> 16) % 256 = unit
    then s.setReg (wPERF + 0x200 + 8 * n) (s.reg (wPERF + 0x200 + 8 * n) + BitVec.ofNat 64 k) else s) s

end Sys2Proof.Machine
end

