-- ==== Sys2Proof/Machine/Report.lean ====
section
/-! DEFINITION. What the device reports: MSI-X messages (R378), the report ring (R397, R398), the fault
history (R423 to R427), management events and health (R432 to R436). -/

namespace Sys2Proof.Machine

/-! ### MSI-X -/

/-- The mask bit of a vector: bit 0 of the last word of its entry in the MSI-X table. -/
def State.msixMasked (s : State) (v : Nat) : Bool := (Tab.get 0 s.ctl.msixTable (16 * v + 12)).toNat.testBit 0

/-- Messages sent and pending bits after a vector is signalled: none in a function reset (R377), a pending bit for a
masked vector (log entry 9). -/
def State.msixNext (s : State) (v : Nat) : List Nat × W64 :=
  if !s.ctl.configured then (s.ctl.msix, s.ctl.msixPend)
  else if s.msixMasked v then (s.ctl.msix, s.ctl.msixPend ||| BitVec.ofNat 64 (2 ^ v))
  else (s.ctl.msix ++ [v], s.ctl.msixPend)

/-- A vector is signalled (R378). -/
def State.msix (s : State) (v : Nat) : State :=
  { s with ctl := { s.ctl with msix := (s.msixNext v).1, msixPend := (s.msixNext v).2 } }

/-- A vector that is no longer masked sends the message that its pending bit stands for. -/
def State.msixFlush (s : State) (v : Nat) : State :=
  if s.ctl.msixPend.toNat.testBit v && !s.msixMasked v then
    ({ s with ctl := { s.ctl with msixPend := s.ctl.msixPend &&& ~~~(BitVec.ofNat 64 (2 ^ v)) } } : State).msix v
  else s

/-- The hold-off of vectors 1 and 3: 2 µs, 500 ticks (R378). -/
def holdoffTicks : Nat := 500

/-- A report was posted on vector 1 or 3 (R378): a message now covers one still owed. -/
def State.signal (s : State) (v : Nat) : State :=
  if v = 1 then
    if s.ctl.msixAt1 ≠ 0 ∧ s.tb.now + 1 < s.ctl.msixAt1 + holdoffTicks
    then { s with ctl := { s.ctl with msixOwed1 := true } }
    else { s with ctl := { s.ctl with msixAt1 := s.tb.now + 1, msixOwed1 := false } }.msix 1
  else
    if s.ctl.msixAt3 ≠ 0 ∧ s.tb.now + 1 < s.ctl.msixAt3 + holdoffTicks
    then { s with ctl := { s.ctl with msixOwed3 := true } }
    else { s with ctl := { s.ctl with msixAt3 := s.tb.now + 1, msixOwed3 := false } }.msix 3

/-! ### Report ring -/

/-- Vector of a report kind (R397). -/
def reportVector (kind : Nat) : Nat :=
  if kind = 0x03 ∨ kind = 0x06 ∨ kind = 0x07 ∨ kind = 0x09 ∨ kind = 0x0A ∨ kind = 0x0C ∨ kind = 0x0D then 3 else 1

/-- Post a report, or count it as lost (R398). A stalled control processor posts none (R372). -/
def State.report (s : State) (kind unit : Nat) (id : W32) (a b : W64) : State :=
  if s.ctl.stalled then s
  else
    let w := s.regF (wMBX + 0x08) 31 0
    let r := s.regF (wMBX + 0x10) 31 0
    if (w + 2 ^ 32 - r) % 2 ^ 32 = 2048 then s.bump (wMBX + 0x08) 63 48 1
    else
      let rec' : Report := ⟨kind, unit, id, s.tb.epoch, a, b⟩
      let s := { s with ctl := { s.ctl with reports := Tab.set none s.ctl.reports (w % 2048) (some rec') } }
      let s := s.setReg (wMBX + 0x08) (W64.setFld (s.reg (wMBX + 0x08)) 31 0 ((w + 1) % 2 ^ 32))
      s.signal (reportVector kind)

/-- The unit of a report that names none. -/
def noUnit : Nat := 0xFFFF

/-! ### Management events -/

/-- ALERT_N is low while the queue holds an event (R436). -/
def State.syncAlert (s : State) : State :=
  { s with pins := { s.pins with alertN := if s.fault.queue.isEmpty then .released else .low } }

/-- A sensor event for Fatal, which is never dropped (R435). -/
def MgmtEvent.isFatal : MgmtEvent → Bool
  | .health st => st == 3
  | .history _ => false
  | .boot _ => false
  | .sensor _ _ => false
  | .timebase _ _ => false

/-- Remove the oldest event that is no sensor event for Fatal (R435). -/
def dropOldest : List MgmtEvent → List MgmtEvent
  | [] => []
  | e :: t => if e.isFatal then e :: dropOldest t else t

/-- Under asynchronous delivery firmware sends the oldest event, and the next one once that is acknowledged (R435). -/
def FaultLog.send (f : FaultLog) : FaultLog :=
  if f.async && !f.shown then
    match f.queue with
    | [] => f
    | e :: _ => { f with shown := true, sent := some e }
  else f

/-- Queue a management event (R435, R436). -/
def State.event (s : State) (e : MgmtEvent) : State :=
  let f := s.fault
  let full := decide (f.queue.length ≥ 256)
  let q := if full then dropOldest f.queue else f.queue
  -- A dropped event that was sent or returned is acknowledged no longer.
  let shown := f.shown && !(full && f.queue.head?.any fun x => !x.isFatal)
  State.syncAlert { s with fault := ({ f with queue := q ++ [e], shown := shown, ibiCount := f.ibiCount + b1 f.ibi } : FaultLog).send }

/-! ### Standing of the units -/

def isRetiredEng (e : Engine) : Bool := e.state == .retired

def State.retiredEngines (s : State) : Nat := (s.engines.filter fun p => isRetiredEng p.2).length
def State.retiredHalves (s : State) : Nat :=
  s.engines.foldl (fun n p => n + b1 p.2.lower + b1 p.2.upper) 0
def State.retiredCores (s : State) : Nat := (s.cores.filter fun p => p.2.retired).length

/-- MBX_HEALTH.DEGRADED (R429). -/
def State.degraded (s : State) : Bool :=
  s.retiredEngines != 0 || s.retiredHalves != 0 || s.retiredCores != 0 || !s.mem.slotRet.isEmpty ||
    !s.mem.l1Ret.isEmpty || !s.mem.retired.isEmpty

/-- State of the health sensor: 1 Normal, 2 Degraded, 3 Fatal (R434). -/
def State.health (s : State) : Nat := if s.fault.fatal then 3 else if s.degraded then 2 else 1

/-- The health sensor sends an event on each change (R434). -/
def State.syncHealth (s : State) : State :=
  if s.health = s.fault.health then s
  else ({ s with fault := { s.fault with health := s.health } } : State).event (.health s.health)

/-! ### Fault history -/

/-- Event kinds of R425; the others are state kinds. -/
def HistEntry.isEvent (e : HistEntry) : Bool := e.kind == 0x05 || e.kind == 0x0B || e.kind == 0x0C || e.kind == 0x0D

/-- Entry places of a block and blocks of a ring in use (R427). -/
def blockPlaces : Nat := 2048
def ringBlocks : Nat := 32

/-- Put an entry into the last block, if it has a place. -/
def appendLast (e : HistEntry) : List (List HistEntry) → Option (List (List HistEntry))
  | [] => none
  | [b] => if b.length < blockPlaces then some [b ++ [e]] else none
  | b :: t => (appendLast e t).map fun t => b :: t

/-- Reclaim the oldest block that holds an event entry: its state entries go to a new last block, with the
new entry after them (R427). -/
def reclaim (e : HistEntry) : List (List HistEntry) → Option (List (List HistEntry))
  | [] => none
  | b :: t =>
    if b.any HistEntry.isEvent then some (t ++ [(b.filter fun x => !x.isEvent) ++ [e]])
    else (reclaim e t).map fun t => b :: t

/-- Free places of a ring outside the block that is kept erased. -/
def ringFree (r : List (List HistEntry)) : Nat :=
  (ringBlocks - r.length) * blockPlaces + (match r.getLast? with
    | some b => blockPlaces - b.length
    | none => 0)

/-- A ring with a new entry: it is reclaimed before its last free place is used, where an event entry can be dropped;
none when no room can be made (R426, R427). -/
def ringAdd (e : HistEntry) (r : List (List HistEntry)) : Option (List (List HistEntry)) :=
  match if ringFree r ≤ 1 then reclaim e r else none with
  | some r => some r
  | none =>
    match appendLast e r with
    | some r => some r
    | none => if r.length < ringBlocks then some (r ++ [[e]]) else none

/-- Insert an entry by NUM; an entry found twice is one entry (R427). -/
def insertNum (e : HistEntry) : List HistEntry → List HistEntry
  | [] => [e]
  | x :: t => if e.num = x.num then x :: t else if e.num.toNat < x.num.toNat then e :: x :: t else x :: insertNum e t

/-- The entries of a copy that pass their CRC (R423). -/
def FaultLog.good (f : FaultLog) (copy : Nat) (ring : List (List HistEntry)) : List HistEntry :=
  ring.flatten.filter fun e => !f.spoilt.contains (copy, e.num)

/-- The entries held, oldest first: those that pass the CRC in either copy (R423, R433). -/
def FaultLog.entries (f : FaultLog) : List HistEntry :=
  (f.good 1 f.ring ++ f.good 2 f.ring2).foldl (fun l e => insertNum e l) []

/-- Number of entries held. -/
def FaultLog.held (f : FaultLog) : Nat := f.entries.length

/-- Some entry fails its CRC in both copies (R423). -/
def FaultLog.lost (f : FaultLog) : Bool :=
  (f.ring.flatten ++ f.ring2.flatten).any fun e => !(f.entries.any fun x => x.num == e.num)

/-- The 32 bytes of an entry (R424). -/
def HistEntry.bytes (e : HistEntry) : List Byte :=
  let head := bytesOf 4 e.num.toNat ++ bytesOf 1 e.kind ++ bytesOf 1 e.source ++ bytesOf 2 e.unit ++
    bytesOf 6 e.epoch.toNat ++ bytesOf 2 (min e.boot 0xFFFF) ++ bytesOf 8 e.a.toNat ++ bytesOf 4 e.b.toNat
  head ++ bytesOf 4 (crc32 head).toNat

/-- The report that an entry brings (R433); the number is all ones where it is not recorded (R432). -/
def State.reportEntry (s : State) (e : HistEntry) : State :=
  if e.kind = 0x0A then s.report 0x0D e.unit 0 e.a (e.num.setWidth 64)
  else s.report 0x09 e.unit e.num (BitVec.ofNat 64 e.kind) 0

/-- An entry is not recorded, for want of room or because its flash write failed: a state change stands and is reported,
and sets HISTFULL (R426, R432). -/
def State.unrecorded (s : State) (e : HistEntry) : State :=
  let e := { e with num := 0xFFFFFFFF }
  if e.isEvent then s
  else (({ s with fault := { s.fault with histFull := true } } : State).reportEntry e).event (.history e)

/-- Append an entry to the fault history, in both copies, and report it (R423, R424, R426, R432). -/
def State.history (s : State) (kind source unit : Nat) (a : W64) (b : W32) : State :=
  let e : HistEntry := ⟨s.fault.nextNum, kind, source, unit, min s.sec.flash.boots 0xFFFF, s.tb.epoch, a, b⟩
  match ringAdd e s.fault.ring, ringAdd e s.fault.ring2 with
  | some r, some r2 =>
    let fails := s.fault.writeFails.headD false
    let s := { s with fault := { s.fault with writeFails := s.fault.writeFails.tail } }
    if fails then ({ s with fault := { s.fault with histErr := true } } : State).unrecorded e
    else
      let s := { s with fault := { s.fault with ring := r, ring2 := r2, nextNum := s.fault.nextNum + 1 } }
      (s.reportEntry e).event (.history e)
  | _, _ => s.unrecorded e

end Sys2Proof.Machine
end

