-- ==== Sys2Proof/Machine/Mem.lean ====
section
/-! DEFINITION. Device memory: where an address lives (R296, R297), committed bytes, poison (R409 to R413),
zero records (R300), the tags of the last-level cache (R259 to R265, R421) and of the L1s (R256). -/

namespace Sys2Proof.Machine

/-! ### Addresses -/

def visible (a n : Nat) : Bool := decide (a + n ≤ Config.memTop)
def winBase : Nat := 0x7E0000000000
def isWindow (a n : Nat) : Bool := decide (winBase ≤ a ∧ a + n ≤ winBase + 0x80000)
def sramBase : Nat := 0x7F0000000000
def isSram (a n : Nat) : Bool := decide (sramBase ≤ a ∧ a + n ≤ sramBase + 0x4000)

/-- A global address has bit 63 set (R332). -/
def isGlobal (a : Nat) : Bool := a.testBit 63
def gDevice (a : Nat) : Nat := (a >>> 47) % 65536
def gLocal (a : Nat) : Nat := a % 2 ^ 47

def fold5 (x : Nat) : Nat := (x ^^^ (x >>> 5) ^^^ (x >>> 10) ^^^ (x >>> 15)) % 32
def fold4 (x : Nat) : Nat := (x ^^^ (x >>> 4) ^^^ (x >>> 8) ^^^ (x >>> 12)) % 16

/-- Whether a pair is die-affine (R298). -/
def State.affine (s : State) (j : Nat) : Bool := (s.reg (wMEM + 0x100 + 8 * (j / 64))).toNat.testBit (j % 64)

/-- Where a local address lies: stack, pseudo-channel, bank, row and column (R296). -/
def State.place (s : State) (pa : Nat) : Row × Nat :=
  let j := pa >>> 31
  let c := (pa >>> 10) % 2 ^ 21
  let so : Nat × Nat :=
    if s.affine j then
      let cc := c % 2 ^ 20
      (16 * (c >>> 20) + ((cc % 16) ^^^ fold4 (cc >>> 4)), cc >>> 4)
    else ((c % 32) ^^^ fold5 (c >>> 5), c >>> 5)
  let o := 65536 * j + so.2
  (⟨so.1, o % 32, (o >>> 5) % 96, (o >>> 5) / 96⟩, (pa >>> 5) % 32)

/-- The line of an address, and the address of a line; sectors likewise (R8). -/
def lineOf (a : Nat) : Nat := a / 128
def sectorOf (a : Nat) : Nat := a / 32

/-- Lines of other devices have numbers from here (R332). -/
def isRemoteLine (l : Nat) : Bool := decide (2 ^ 56 ≤ l)

/-- The device-wide cluster whose slice holds a line (R297, R340). -/
def State.home (s : State) (l : Nat) : Nat :=
  if isRemoteLine l then
    let l := l % 2 ^ 56
    let h := (l ^^^ (l >>> 16) ^^^ (l >>> 32) ^^^ (l >>> 48)) % 65536
    12 * (h >>> 15) + (((h % 32768) * 12) >>> 15)
  else
    let die := (s.place (l * 128)).1.stack / 16
    let h := (l ^^^ (l >>> 16) ^^^ (l >>> 32)) % 65536
    12 * die + ((h * 12) >>> 16)

/-! ### Bytes and poison -/

def State.byte (s : State) (a : Nat) : Byte := Tab.get 0 s.mem.bytes a
def State.setByte (s : State) (a : Nat) (b : Byte) : State :=
  { s with mem := { s.mem with bytes := Tab.set 0 s.mem.bytes a b } }

def State.bytesAt (s : State) (a n : Nat) : List Byte := (List.range n).map fun i => s.byte (a + i)

/-- The canonical form of memory. -/
def Mem.wf (m : Mem) : Bool := Tab.wf 0 m.bytes

/-- Write bytes at rising addresses. -/
def Mem.putBytes (m : Mem) : Nat → List Byte → Mem
  | _, [] => m
  | a, b :: t => Mem.putBytes { m with bytes := Tab.set 0 m.bytes a b } (a + 1) t

def State.putBytes (s : State) (a : Nat) (bs : List Byte) : State := { s with mem := s.mem.putBytes a bs }

def State.frameRetired (s : State) (f : Nat) : Bool := s.mem.retired.contains f

def State.llcLine (s : State) (l : Nat) : LlcLine := Tab.get LlcLine.reset s.mem.llc l
def State.setLlc (s : State) (l : Nat) (x : LlcLine) : State :=
  { s with mem := { s.mem with llc := Tab.set LlcLine.reset s.mem.llc l x } }

/-- Whether a committed sector of local memory reads as poisoned (R309, R409). -/
def State.poisoned (s : State) (sec : Nat) : Bool :=
  s.mem.poison.has sec || s.frameRetired (sec / 128) ||
    (s.llcLine (sec / 4)).poison.toNat.testBit (sec % 4)

def State.poison (s : State) (sec : Nat) : State := { s with mem := { s.mem with poison := s.mem.poison.add sec } }

/-- Poison leaves a sector that a store covers whole (R412). -/
def State.unpoison (s : State) (sec : Nat) : State :=
  let s := { s with mem := { s.mem with poison := s.mem.poison.del sec } }
  let x := s.llcLine (sec / 4)
  s.setLlc (sec / 4) { x with poison := x.poison &&& ~~~(BitVec.ofNat 4 (2 ^ (sec % 4))) }

/-! ### Last-level cache (R259 to R265) -/

def State.setIdx (_s : State) (l : Nat) : Nat := Config.llcSet l % 16384

/-- A slot: cluster × 2^18 + set × 16 + way. -/
def slotKey (cl set way : Nat) : Nat := cl * 2 ^ 18 + set * 16 + way

/-- Lines present in the set of a line. -/
def State.setLines (s : State) (l : Nat) : Tab LlcLine :=
  let cl := s.home l
  let st := s.setIdx l
  s.mem.llc.filter fun p => s.home p.1 == cl && s.setIdx p.1 == st

/-- Held lines of all versions in the set of a line, with their ways (R238). -/
def State.setHeld (s : State) (l : Nat) : List Nat :=
  let cl := s.home l
  let st := s.setIdx l
  s.versions.foldl (fun acc v =>
    acc ++ (v.2.lines.filter fun p => s.home p.1 == cl && s.setIdx p.1 == st).map fun p => p.2.way) []

/-- Retired ways of the set of a line (R421). -/
def State.setRetired (s : State) (l : Nat) : List Nat :=
  (List.range 16).filter fun w => s.mem.slotRet.has (slotKey (s.home l) (s.setIdx l) w)

/-- Encoded size of a sector (R261). -/
def sectorSize (ws : List Nat) : Nat :=
  match ws with
  | [] => 0
  | w0 :: t =>
    let d := t.map fun w => sint 32 (w + 2 ^ 32 - w0)
    if w0 == 0 && t.all fun w => w == 0 then 0
    else if t.all fun w => w == w0 then 4
    else if d.all fun x => decide (-128 ≤ x ∧ x ≤ 127) then 11
    else if d.all fun x => decide (-32768 ≤ x ∧ x ≤ 32767) then 18
    else 32

/-- The eight words of a sector of local memory. -/
def State.sectorWords (s : State) (sec : Nat) : List Nat :=
  (List.range 8).map fun i => ofBytes (s.bytesAt (sec * 32 + 4 * i) 4)

/-- A line is compressible (R261); remote lines never are (R340). -/
def State.compressible (s : State) (l : Nat) : Bool :=
  !isRemoteLine l && (s.llcLine l).valid == 0xF &&
    (List.range 4).all (fun i => !s.poisoned (4 * l + i)) &&
    decide ((List.range 4).foldl (fun n i => n + sectorSize (s.sectorWords (4 * l + i))) 0 ≤ 62)

/-- Slots of the set with a pinned line: their ways. -/
def pinnedWays (ls : Tab LlcLine) : List Nat := ((ls.filter fun p => p.2.pinned).map fun p => p.2.way).eraseDups

/-- LLC_PINUSE: slots that hold pinned lines (R265). -/
def State.pinUse (s : State) : Nat :=
  ((s.mem.llc.filter fun p => p.2.pinned).map fun p => slotKey (s.home p.1) (s.setIdx p.1) p.2.way).eraseDups.length

/-- Sectors of a mask. -/
def sectors (m : BitVec 4) : List Nat := (List.range 4).filter fun i => m.toNat.testBit i

/-- A line leaves its slice, its dirty sectors towards the stack (R260, R263). -/
def State.evictLine (s : State) (l : Nat) : State :=
  let x := s.llcLine l
  let n := (sectors x.dirty).length
  let s := { s with mem := { s.mem with llc := s.mem.llc.erase l, rlines := s.mem.rlines.erase l } }
  if n = 0 then s
  else ({ s with mem := { s.mem with wbs := s.mem.wbs ++ [(l, x.dirty)] } } : State).countDev 0x82 (s.home l) n

/-- The victim way of a set: the lowest-numbered one with age 3, ages rising until there is one (R263). -/
def victimWay (ways : List (Nat × Nat)) : Nat → Option Nat
  | 0 => none
  | n + 1 =>
    match ways.find? fun p => p.2 ≥ 3 with
    | some p => some p.1
    | none => victimWay (ways.map fun p => (p.1, p.2 + 1)) n

/-- How much the ages of a set rise in that search. -/
def ageRise (ways : List (Nat × Nat)) : Nat := 3 - ways.foldl (fun m p => max m (min p.2 3)) 0

/-- A free or freed way for a line in its set, other than the way `no`: an empty slot, or the victim's after its
eviction. -/
def State.makeWayBut (s : State) (l : Nat) (no : Option Nat) : State × Nat :=
  let ls := s.setLines l
  let held := s.setHeld l
  let ret := s.setRetired l
  let free := (List.range 16).find? fun w =>
    !ret.contains w && !held.contains w && !(ls.any fun p => p.2.way == w)
  match free with
  | some w => (s, w)
  | none =>
    let ev := (List.range 16).filter fun w =>
      !ret.contains w && !held.contains w && !(ls.any fun p => p.2.way == w && p.2.pinned) && no != some w
    let aged := ev.map fun w => (w, ls.foldl (fun m p => if p.2.way = w then min m p.2.age else m) 3)
    let w := (victimWay aged 4).getD 0
    let rise := ageRise aged
    let s := ls.foldl (fun s p =>
      if p.2.way = w then s.evictLine p.1
      else if p.2.pinned then s
      else s.setLlc p.1 { p.2 with age := min 3 (p.2.age + rise) }) s
    (s, w)

/-- A free or freed way for a line in its set. -/
def State.makeWay (s : State) (l : Nat) : State × Nat := s.makeWayBut l none

/-- Age of a fill under a HINT (R263): 0 normal, 1 streaming, 2 reuse, 3 pinned. -/
def fillAge (hint : Nat) : Nat := if hint = 1 then 3 else if hint = 2 then 1 else 2

/-- Whether a pin request of a line is granted, when it takes `more` further pinned slots (R264, R421). -/
def State.pinAllowed (s : State) (l more : Nat) : Bool :=
  let r := (s.setRetired l).length
  let p := (pinnedWays (s.setLines l)).length + more
  let h := (s.setHeld l).length
  decide (p ≤ 12 - r ∧ p + h ≤ 14 - r ∧ s.pinUse + more ≤ s.regF (wLLC + 0x08) 22 0)

/-- LLC_PINDEM counts a demotion (R264, R238). -/
def State.demoted (s : State) (l : Nat) : State :=
  (s.bump (wLLC + 0x18) 31 0 1).countDev 0x84 (s.home l) 1

/-- A partner for a compressed line: a slot of the set with one compressible line of the same class (R262). -/
def State.partner (s : State) (l : Nat) (pinned : Bool) : Option Nat :=
  if !(s.reg wLLC).toNat.testBit 0 || !s.compressible l then none
  else
    let ls := (s.setLines l).filter fun p => p.1 != l
    (List.range 16).find? fun w =>
      match ls.filter fun p => p.2.way == w with
      | [p] => p.2.pinned == pinned && s.compressible p.1
      | _ => false

/-- Place a line's tag: compressed beside a partner, or in a way of its own (R262, R263). -/
def State.slotFor (s : State) (l : Nat) (pinned : Bool) : State × Nat :=
  match s.partner l pinned with
  | some w => (s, w)
  | none => s.makeWay l

/-- The lines that share the slot of a line. -/
def State.mates (s : State) (l : Nat) : Tab LlcLine :=
  (s.setLines l).filter fun p => p.1 != l && p.2.way == (s.llcLine l).way

/-- A slot takes the age of its most recent access, which was to this line (R263). -/
def State.slotAge (s : State) (l : Nat) : State :=
  (s.mates l).foldl (fun (s : State) (p : Nat × LlcLine) => s.setLlc p.1 { p.2 with age := (s.llcLine l).age }) s

/-- A line that has changed its class leaves a slot whose other line is of the old class (R262). -/
def State.regroup (s : State) (l : Nat) : State :=
  let x := s.llcLine l
  if (s.mates l).all fun p => p.2.pinned == x.pinned then s
  else match s.partner l x.pinned with
    | some w => s.setLlc l { x with way := w }
    | none =>
      let r := s.makeWayBut l (some x.way)
      r.1.setLlc l { x with way := r.2 }

/-- Pinned slots that pinning a line would add: none where it shares a pinned slot (R265). -/
def State.pinMore (s : State) (l : Nat) : Nat := if (s.partner l true).isSome then 0 else 1

/-- A line whose store made it incompressible leaves its partner for a slot of its own (R262). -/
def State.unpair (s : State) (l : Nat) : State :=
  let x := s.llcLine l
  let mates := (s.setLines l).filter fun p => p.1 != l && p.2.way == x.way
  if mates.isEmpty || s.compressible l then s
  else
    let r := s.makeWayBut l (some x.way)
    r.1.setLlc l { x with way := r.2 }

/-! ### L1 (R256, R257) -/

def Core.l1Line (c : Core) (l : Nat) : L1Line := Tab.get L1Line.reset c.l1 l
def Core.setL1 (c : Core) (l : Nat) (x : L1Line) : Core := { c with l1 := Tab.set L1Line.reset c.l1 l x }
def Core.dropL1 (c : Core) (l : Nat) : Core := { c with l1 := c.l1.erase l }

/-- A line leaves every L1. -/
def State.dropL1s (s : State) (l : Nat) : State :=
  s.cores.foldl (fun s p => if (p.2.l1Line l).valid = 0 then s else s.updCore p.1 fun c => c.dropL1 l) s

/-- A sector leaves every L1 but that of core `n` (R257). -/
def State.snoop (s : State) (n : Option Nat) (sec : Nat) : State :=
  let l := sec / 4
  s.cores.foldl (fun s p =>
    if n = some p.1 ∨ (p.2.l1Line l).valid = 0 then s
    else s.updCore p.1 fun c =>
      let x := c.l1Line l
      let v := x.valid &&& ~~~(BitVec.ofNat 4 (2 ^ (sec % 4)))
      if v = 0 then c.dropL1 l else c.setL1 l { x with valid := v }) s

/-- Retired ways of an L1 set (R421): core × 2^12 + set × 8 + way. -/
def l1Key (core set way : Nat) : Nat := core * 2 ^ 12 + set * 8 + way

def l1SetIdx (l : Nat) : Nat := Config.l1Set l % 512

/-- A line that is accessed leaves the least-recently-used position (R256). -/
def Core.warmL1 (c : Core) (l : Nat) : Core :=
  if (c.l1Line l).cold then c.setL1 l { c.l1Line l with cold := false } else c

/-- Fill sectors of a line into the L1 of a core (R256); `cold` is a line brought in under HINT streaming, which is the
next to go. -/
def State.l1Fill (s : State) (n l : Nat) (mask poison : BitVec 4) (held cold : Bool) : State :=
  let c := s.core n
  let x := c.l1Line l
  if x.valid ≠ 0 then
    s.setCore n (c.setL1 l { x with valid := x.valid ||| mask, poison := x.poison ||| poison,
                                    held := x.held || held, cold := x.cold && cold })
  else
    let st := l1SetIdx l
    let ret := (List.range 8).filter fun w => s.mem.l1Ret.has (l1Key n st w)
    let mates := c.l1.filter fun p => l1SetIdx p.1 == st
    let ways := (List.range 8).filter fun w => !ret.contains w
    let free := ways.find? fun w => !(mates.any fun p => p.2.way == w)
    let victim := match mates.find? fun p => p.2.cold with
      | some p => p.2.way
      | none => ways.getD (Config.l1Victim s.free l % max 1 ways.length) 0
    let w := free.getD victim
    let c := (mates.filter fun p => p.2.way == w).foldl (fun c p => c.dropL1 p.1) c
    -- The line in that position before is no longer the least recently used.
    let c := if cold then (mates.filter fun p => p.2.cold && p.2.way != w).foldl (fun c p => c.warmL1 p.1) c else c
    s.setCore n (c.setL1 l ⟨mask, poison, held, w, cold⟩)

/-! ### Lines that leave -/

/-- A line leaves every cache without write-back (R264, R279, R298, R309). -/
def State.dropLine (s : State) (l : Nat) : State :=
  let s := { s with mem := { s.mem with llc := s.mem.llc.erase l, rlines := s.mem.rlines.erase l,
                                        wbs := s.mem.wbs.filter fun p => p.1 != l } }
  s.dropL1s l

/-! ### Rows and frames (R307 to R310) -/

/-- A bank of the device. -/
def bankKey (stack pch bank : Nat) : Nat := (stack * 32 + pch) * 96 + bank
def Row.bankKey (r : Row) : Nat := Machine.bankKey r.stack r.pch r.bank

/-- Number of spares a bank has used, those that failed in a copy too. -/
def State.usedSpares (s : State) (r : Row) : Nat := Tab.get 0 s.mem.spares r.bankKey

/-- The lowest-numbered unused spares of a bank are taken (R308). -/
def State.takeSpares (s : State) (r : Row) (k : Nat) : State :=
  { s with mem := { s.mem with spares := Tab.set 0 s.mem.spares r.bankKey (min 16 (s.usedSpares r + k)) } }

/-- The row in use behind a row after some remaps, the latest last. -/
def remapped (l : List (Row × Nat)) (r : Row) : Row :=
  l.foldl (fun (x : Row) p => if p.1 = x then { x with row := p.2 } else x) r

/-- The row in use behind an addressed row: its spare where it has been remapped. -/
def State.rowInUse (s : State) (r : Row) : Row := remapped s.mem.remaps r

/-- A of a ROW_REMAP entry (R425). -/
def Row.code (r : Row) : Nat := (r.pch <<< 40) + (r.bank <<< 32) + r.row

/-- Held lines of a frame leave their versions. -/
def State.dropHeldFrame (s : State) (f : Nat) : State :=
  { s with versions := s.versions.map fun v => (v.1, { v.2 with lines := v.2.lines.filter fun p => p.1 / 32 != f }) }

/-- Retire a frame, whose row failed (R309, R310): its lines, held ones too, leave every cache. -/
def State.retireFrame (s : State) (source f : Nat) (r : Row) : State :=
  if s.frameRetired f then s
  else
    let ent := fun (s : State) => s.history 0x0A source r.stack (BitVec.ofNat 64 (f * 4096)) (BitVec.ofNat 32 r.code)
    if s.mem.retired.length ≥ 4096 then
      ent (s.orReg (wMEM + 0x10) (BitVec.ofNat 64 (2 ^ 63)))
    else
      let s := ((List.range 32).foldl (fun s i => s.dropLine (32 * f + i)) s).dropHeldFrame f
      let s := { s with mem := { s.mem with retired := s.mem.retired ++ [f] } }
      (ent s).syncHealth

/-- A row has failed: a spare begins to take its place, or its frame is retired (R308, R309). -/
def State.rowFailed (s : State) (addr : Nat) (r : Row) : State :=
  let used := s.usedSpares r
  if s.mem.copying.any fun c => c.row = r then s
  else if used < 16 then
    ({ s with mem := { s.mem with copying := s.mem.copying ++ [⟨r, 16384 + used, addr⟩] } } : State).takeSpares r 1
  else s.retireFrame 0 (addr / 4096) r

/-- A POISON_MADE entry (R425): 1 stack, 2 dirty or held slice sector, 3 path. -/
def State.poisonMade (s : State) (unit sec source : Nat) : State :=
  s.history 0x0C 0 unit (BitVec.ofNat 64 (sec * 32)) (BitVec.ofNat 32 source)

/-! ### Metadata and reads of the stacks (R294, R295, R307, R404) -/

/-- Where the check bytes of a data row lie: the carve-out of its partner bank, one sector for each row (R294). -/
def Row.checkPlace (r : Row) : Row × Nat := (⟨r.stack, r.pch, r.bank ^^^ 1, 15872 + r.row / 32⟩, r.row % 32)

/-- Where the zero records of a data row lie: row and byte of it (R294). -/
def Row.zeroPlace (r : Row) : Row × Nat := (⟨r.stack, r.pch, r.bank ^^^ 1, 16368 + r.row / 1024⟩, r.row % 1024)

/-- The even parities of the eight groups of four bytes of a sector (R404). -/
def groupParity (bs : List Byte) : BitVec 8 :=
  BitVec.ofNat 8 (ofBits ((List.range 8).map fun i =>
    (List.range 32).foldl (fun p k => p != (bs.getD (4 * i + k / 8) 0).toNat.testBit (k % 8)) false))

/-- The check byte at rest of a sector: complemented where it is poisoned (R294, R404). -/
def State.checkByte (s : State) (sec : Nat) : BitVec 8 :=
  let p := groupParity (s.bytesAt (sec * 32) 32)
  if s.mem.poison.has sec then ~~~p else p

/-- The syndrome of a read in which the parities of the groups `e` come back wrong (R404). -/
def State.syndrome (s : State) (sec : Nat) (e : BitVec 8) : BitVec 8 :=
  groupParity (s.bytesAt (sec * 32) 32) ^^^ s.checkByte sec ^^^ e

/-- The table of R404: whether a read delivers the sector, and then whether as poisoned. -/
def State.readGives (s : State) (sec : Nat) : StackFind → Option Bool
  | .groups e => if s.syndrome sec e = 0 then some false else if s.syndrome sec e = 0xFF then some true else none
  | .corrected => some (s.mem.poison.has sec)
  | .uncorrectable => none

/-- A row's metadata is used: on a miss its two carve-out sectors are read, and it takes the place of another row
(R295). Which one, where 256 are cached, is not stated. -/
def State.useMeta (s : State) (r : Row) : State :=
  let x := s.stack r.stack
  let m := Tab.get [] x.metaRows r.pch
  let k := r.bank * 16384 + r.row
  if m.contains k then s
  else
    let m := if m.length < 256 then m else m.eraseIdx (Config.pick s.free % 256)
    ((s.setStack r.stack { x with metaRows := Tab.set [] x.metaRows r.pch (k :: m) }).countDev 0xA5 r.stack 1).countDev
      0xA0 r.stack 2

/-- Corrected errors of a row. -/
def State.rowErrors (s : State) (r : Row) : Nat :=
  match s.mem.corrected.find? fun p => p.1 == r with
  | some p => p.2
  | none => 0

/-- The on-die ECC reports a corrected error: the eighth fails the row (R307). -/
def State.noteCorrected (s : State) (sec : Nat) (r : Row) : State :=
  let k := s.rowErrors r + 1
  let s : State := { s with mem := { s.mem with corrected := (r, k) :: s.mem.corrected.filter fun p => p.1 != r } }
  if k = 8 then s.rowFailed (sec * 32) r else s

/-- A sector that failed both reads is delivered poisoned, and its row has failed (R307). -/
def State.readFailed (s : State) (sec : Nat) (r : Row) : State :=
  let s := if s.poisoned sec then s else (s.poison sec).poisonMade r.stack sec 1
  s.rowFailed (sec * 32) r

/-- The row in use at a sector of local memory. -/
def State.rowAt (s : State) (sec : Nat) : Row := s.rowInUse (s.place (sec * 32)).1

/-- Accesses to a row wait while it is copied (R308). -/
def State.rowCopying (s : State) (r : Row) : Bool := s.mem.copying.any fun c => c.row == r

/-- Whether accesses to a line's row wait. -/
def State.lineCopying (s : State) (l : Nat) : Bool :=
  !s.mem.copying.isEmpty && !isRemoteLine l && s.rowCopying (s.rowAt (4 * l))

/-- A sector is delivered: as poisoned, or as good. -/
def State.delivered (s : State) (sec : Nat) (bad : Bool) : State :=
  if bad == s.mem.poison.has sec then s
  else if bad then s.poison sec
  else { s with mem := { s.mem with poison := s.mem.poison.del sec } }

/-- One read of a sector of its row: what its data and its on-die ECC say. -/
def State.readOnce (s : State) (sec : Nat) (r : Row) (f : StackFind) : Option State :=
  (s.readGives sec f).map fun bad => if f = .corrected then (s.delivered sec bad).noteCorrected sec r else s.delivered sec bad

/-- A sector is read from its stack, a second time where the first read fails (R307). -/
def State.readSector (s : State) (sec : Nat) : State :=
  let r := s.rowAt sec
  let s := s.countDev 0xA0 r.stack 1
  match s.mem.finds.find? fun f => f.1 == sec with
  | none => s
  | some (_, first, second) =>
    let s : State := { s with mem := { s.mem with finds := s.mem.finds.filter fun f => f.1 != sec } }
    match s.readOnce sec r first with
    | some t => t
    | none =>
      let s := (s.countDev 0xA3 r.stack 1).countDev 0xA0 r.stack 1
      match s.readOnce sec r second with
      | some t => t
      | none => s.readFailed sec r

/-- A slice reads the sectors of a local line that it does not hold: from the line's zero record (R300), or from its
row. A retired frame is not read (R309). -/
def State.stackRead (s : State) (l : Nat) (mask : BitVec 4) : State :=
  let new := mask &&& ~~~(s.llcLine l).valid
  if isRemoteLine l || s.frameRetired (l / 32) || new == 0 then s
  else
    let r := (s.place (l * 128)).1
    let s := s.useMeta r
    if !s.mem.written.has l && !(s.mem.wbs.any fun p => p.1 == l) then
      (s.bump (wLLC + 0x28) 31 0 1).countDev 0xA6 r.stack 1
    else (sectors new).foldl (fun (s : State) i => s.readSector (4 * l + i)) s

/-! ### Fills of a slice (R260 to R264) -/

/-- A hit's pin request is granted: the line joins a pinned partner, or leaves its evictable one (R262, R264). -/
def State.pinLine (s : State) (l : Nat) : State :=
  match s.partner l true with
  | some w => s.setLlc l { s.llcLine l with way := w, pinned := true }
  | none => (s.setLlc l { s.llcLine l with pinned := true }).regroup l

/-- Some sectors of a line become present in its slice under a HINT (R260, R263, R264). `req` is a pin request. -/
def State.llcFill (s : State) (l : Nat) (mask dirty : BitVec 4) (hint : Nat) (req : Bool) : State :=
  let s : State := { s with mem := { s.mem with stamp := s.mem.stamp + 1 } }
  let now := s.mem.stamp
  let x := s.llcLine l
  if x.valid != 0 then
    let age := if hint = 1 then (if x.age < 2 then x.age else 2) else 0
    let s := (s.setLlc l { x with valid := x.valid ||| mask, dirty := x.dirty ||| dirty, age := age, used := now }).slotAge l
    if req && !x.pinned then
      if s.pinAllowed l (s.pinMore l) then s.pinLine l
      else ((s.setLlc l { s.llcLine l with age := 2 }).slotAge l).demoted l
    else s
  else
    -- The tag is entered first, so that compressibility can be judged on it.
    let s := s.setLlc l ⟨mask, dirty, 0, 16, fillAge hint, false, now⟩
    let pin := req && s.pinAllowed l (s.pinMore l)
    let s := if req && !pin then s.demoted l else s
    let r := s.slotFor l pin
    let age := if req then 2 else fillAge hint
    (r.1.setLlc l ⟨mask, dirty, 0, r.2, age, pin, now⟩).slotAge l

/-! ### Miss registers (R270 to R272) -/

def Core.missMax (c : Core) : Nat := if (c.cr nL1CTRL).toNat.testBit 0 then 32 else 1

/-- Sectors that cross the die-to-die link between a core and the slice of a line (R24). -/
def State.crossDie (s : State) (n l k : Nat) : State :=
  if coreDie n = s.home l / 12 then s else s.countDev 0xF2 0 k

/-- The slice begins to read a line from memory or another device, unless it holds the sectors (R272). -/
def State.sliceMiss (s : State) (l : Nat) (mask : BitVec 4) : State :=
  let x := s.llcLine l
  if mask &&& ~~~x.valid = 0 then s.countDev 0x80 (s.home l) 1
  else if s.mem.miss.contains l then s.stackRead l mask
  else (({ s with mem := { s.mem with miss := s.mem.miss ++ [l] } } : State).countDev 0x81 (s.home l) 1).stackRead l mask

/-- Slice misses of the slice of a line; 192 at most (R272). -/
def State.sliceFull (s : State) (l : Nat) : Bool :=
  decide ((s.mem.miss.filter fun m => s.home m == s.home l).length ≥ 192) && !s.mem.miss.contains l

/-- A slice miss must wait: for a register (R272), or for the copy of its row (R308). -/
def State.sliceWaits (s : State) (l : Nat) (mask : BitVec 4) : Bool :=
  mask &&& ~~~(s.llcLine l).valid != 0 && (s.sliceFull l || s.lineCopying l)

/-- Allocate or merge an L1 miss (R270, R271); none where it must wait, as every second miss does in forerunner
mode. -/
def State.l1MissFor (s : State) (n l : Nat) (mask : BitVec 4) (hint : Nat) (llcOnly : Bool) (pf : List Nat) :
    Option State :=
  let c := s.core n
  if s.sliceWaits l mask then none
  else match c.l1Miss.find? fun m => m.line = l with
  | some m =>
    if m.merged ≥ 8 || !(c.cr nL1CTRL).toNat.testBit 0 then none
    else
      some (((s.setCore n { c with l1Miss := c.l1Miss.map fun (x : L1Miss) =>
        if x.line = l then { x with mask := x.mask ||| mask, merged := x.merged + 1, llcOnly := x.llcOnly && llcOnly,
                                    pf := x.pf ++ pf }
        else x }).countCore n 0x52 1).stackRead l mask)
  | none =>
    if c.l1Miss.length ≥ c.missMax then none
    else
      let m : L1Miss := ⟨l, mask, 0, llcOnly, BitVec.ofNat 2 hint, pf⟩
      some (((s.setCore n { c with l1Miss := c.l1Miss ++ [m] }).countCore n 0x51 1).sliceMiss l mask)

/-- The virtual addresses of the translated prefetches of a core that are in flight or wait (R254, R281). -/
def Core.pfAddrs (c : Core) : List Nat := (c.l1Miss.map fun m => m.pf).flatten ++ (c.pfWait.map fun w => w.pf).flatten

/-- A stream prefetch takes a miss register and is counted, or waits for one (R270, R276). -/
def State.askPrefetch (s : State) (n : Nat) (w : PfWait) : State :=
  let c := s.core n
  if (c.l1Line w.line).valid = 0xF || (c.l1Miss.any fun m => m.line == w.line) then s
  else match s.l1MissFor n w.line 0xF w.hint w.llcOnly w.pf with
    | some s => s.countCore n 0x53 1
    | none => s.setCore n { c with pfWait := c.pfWait ++ [w] }

/-- Waiting stream prefetches are tried again, oldest first. -/
def State.startWaiting (s : State) (n : Nat) : State :=
  (s.core n).pfWait.foldl (fun (s : State) w => s.askPrefetch n w) (s.updCore n fun c => { c with pfWait := [] })

/-- A core gives up its miss of a line: the slice's register frees, where no other core waits for it. -/
def State.leaveMiss (s : State) (n l : Nat) : State :=
  if s.cores.any fun c => c.1 != n && c.2.l1Miss.any fun m => m.line == l then s
  else { s with mem := { s.mem with miss := s.mem.miss.filter fun x => x != l } }

/-- A line has come or has failed to come: its registers free, in the L1 and in the slice. -/
def State.freeMiss (s : State) (n l : Nat) : State :=
  let s : State := { s with mem := { s.mem with miss := s.mem.miss.filter fun x => x != l } }
  (s.updCore n fun c =>
    { c with l1Miss := c.l1Miss.filter fun x => x.line != l,
             missMode := c.missMode.map fun p => (p.1, p.2.filter fun x => x != l),
             l1Pend := c.l1Pend.map fun p => (p.1, p.2.filter fun x => x != l) }).startWaiting n

/-- The version of a core holds bytes of a line (R236). -/
def State.heldLineOf (s : State) (n l : Nat) : Bool :=
  match (s.core n).heldVer with
  | some v => (s.ver v).lines.any fun p => p.1 == l
  | none => false

/-- What a miss register of a core asked for fills the home slice and, unless it is for the slice alone, the L1; the
register frees (R256, R270, R272, R277). -/
def State.fillMiss (s : State) (n : Nat) (m : L1Miss) : State :=
  let s := s.llcFill m.line m.mask 0 m.hint.toNat (m.hint == 3)
  let s := if m.llcOnly then s
    else (s.crossDie n m.line (sectors m.mask).length).l1Fill n m.line m.mask 0 (s.heldLineOf n m.line) (m.hint == 1)
  s.freeMiss n m.line

/-- The oldest miss of a core to local memory. -/
def Core.oldestMiss (c : Core) : Option L1Miss := c.l1Miss.find? fun m => !isRemoteLine m.line

/-- A slice whose registers are all taken fills its oldest miss for a miss that an agent makes in one step (R272). -/
def State.sliceRoom (s : State) (l : Nat) : State :=
  if !s.sliceFull l then s
  else match s.mem.miss.find? fun m => s.home m == s.home l && !isRemoteLine m with
    | none => s
    | some k =>
      match s.cores.findSome? fun c => (c.2.l1Miss.find? fun m => m.line == k).map fun m => (c.1, m) with
      | none => s
      | some (n, m) => s.fillMiss n m

/-- Sectors of a local line are read into its slice in one step, and used under a HINT. -/
def State.readFill (s : State) (l : Nat) (mask : BitVec 4) (hint : Nat) (req : Bool) : State :=
  let miss := mask &&& ~~~(s.llcLine l).valid != 0
  let s := if miss then s.sliceRoom l else s
  ((s.countDev (if miss then 0x81 else 0x80) (s.home l) 1).stackRead l mask).llcFill l mask 0 hint req

/-- A read of sectors at their home slice by an agent that is no core, or by a walker (R251, R260, R263, R266). -/
def State.sliceRead (s : State) (l : Nat) (mask : BitVec 4) : State := s.readFill l mask 0 false

/-- The tag of a line takes a store to one sector: a whole one allocates without a read; a part of one needs the sector
first (R260), and a copy that was poisoned there is poisoned for good (R411). -/
def State.storeFill (s : State) (sec : Nat) (whole : Bool) (hint : Nat) : State :=
  let bit : BitVec 4 := BitVec.ofNat 4 (2 ^ (sec % 4))
  let l := sec / 4
  if whole then (s.countDev 0x80 (s.home l) 1).llcFill l bit bit hint (decide (hint = 3))
  else
    let s := s.readFill l bit hint (decide (hint = 3))
    let x := s.llcLine l
    let s := if x.poison &&& bit = 0 then s else { s with mem := { s.mem with poison := s.mem.poison.add sec } }
    s.setLlc l { x with dirty := x.dirty ||| bit, poison := x.poison &&& ~~~bit }

/-! ### Committed stores -/

/-- A local line is zero-marked: it reads as zeros, without poison (R300). -/
def State.zeroMark (s : State) (l : Nat) : State :=
  let m := (List.range 128).foldl (fun m i => Tab.erase m (l * 128 + i)) s.mem.bytes
  let p := (List.range 4).foldl (fun p i => Tab.erase p (4 * l + i)) s.mem.poison
  { s with mem := { s.mem with bytes := m, poison := p, written := s.mem.written.del l } }

/-- cache.dead and Swath ZERO of a local line (R279, R284); nothing in a retired frame (R309). -/
def State.deadLine (s : State) (l : Nat) : State :=
  if s.frameRetired (l / 32) then s
  else ((s.dropLine l).zeroMark l).bump (wLLC + 0x20) 31 0 1

/-- The bytes of a sector under a mask, written. -/
def Mem.putMasked (m : Mem) (a : Nat) (mask : W32) (d : Sector) : Mem :=
  (List.range 32).foldl (fun m i =>
    if mask.toNat.testBit i then { m with bytes := Tab.set 0 m.bytes (a + i) (byteAt d i) } else m) m

/-- A store to a local sector takes effect at its home slice (R257, R260, R411, R412). `clears` is
whether it covers the sector as one store. False where the frame is retired and it is dropped (R309). -/
def State.commitSector (s : State) (n : Option Nat) (sec : Nat) (mask : W32) (d : Sector) (poison clears : Bool)
    (hint : Nat) : State × Bool :=
  if s.frameRetired (sec / 128) then (s, false)
  else
    let bit : BitVec 4 := BitVec.ofNat 4 (2 ^ (sec % 4))
    let l := sec / 4
    let s := match n with
      | some n => s.crossDie n l 1
      | none => s
    let s := s.storeFill sec (clears && mask == BitVec.allOnes 32) hint
    let s := { s with mem := s.mem.putMasked (sec * 32) mask d }
    let s := if clears && mask == BitVec.allOnes 32 then s.unpoison sec else s
    let s := if poison then s.poison sec else s
    let s := (s.unpair l).snoop n sec
    let s := match n with
      | some n =>
        if clears && mask == BitVec.allOnes 32 then
          s.updCore n fun c =>
            let x := c.l1Line l
            if x.poison &&& bit = 0 then c else c.setL1 l { x with poison := x.poison &&& ~~~bit }
        else s
      | none => s
    (s, true)

/-- Bytes of a span within one sector as mask and data of that sector. -/
def spanSector (a : Nat) (bs : List Byte) : W32 × Sector :=
  let o := a % 32
  (BitVec.ofNat 32 ((2 ^ bs.length - 1) <<< o), BitVec.ofNat 256 (ofBytes bs <<< (8 * o)))

/-- Cut a span of bytes at sector boundaries. -/
def splitSectors : Nat → Nat → List Byte → List (Nat × List Byte)
  | 0, _, _ => []
  | _, _, [] => []
  | fuel + 1, a, bs =>
    let k := 32 - a % 32
    (a, bs.take k) :: splitSectors fuel (a + k) (bs.drop k)

/-- Committed stores of a span by an agent that is no core, with the EP attribute (R268, R414). -/
def State.commitSpan (s : State) (a : Nat) (bs : List Byte) (ep : Bool) : State :=
  (splitSectors (bs.length + 1) a bs).foldl (fun s p =>
    let m := spanSector p.1 p.2
    (s.commitSector none (sectorOf p.1) m.1 m.2 ep true 0).1) s

/-- Whether any sector of a span is poisoned. -/
def State.spanPoisoned (s : State) (a n : Nat) : Bool :=
  n != 0 && (List.range ((a + n - 1) / 32 - a / 32 + 1)).any fun i => s.poisoned (a / 32 + i)

/-- A doubleword of local memory, as firmware and the walkers read it. -/
def State.dword (s : State) (a : Nat) : W64 := BitVec.ofNat 64 (ofBytes (s.bytesAt a 8))

/-! ### Swath treatment of one line (R284) -/

/-- Dirty sectors are written back; the line stays, clean. -/
def State.cleanLine (s : State) (l : Nat) : State :=
  let x := s.llcLine l
  let k := (sectors x.dirty).length
  if k = 0 then s
  else
    let s := s.setLlc l { x with dirty := 0 }
    ({ s with mem := { s.mem with wbs := s.mem.wbs ++ [(l, x.dirty)] } } : State).countDev 0x82 (s.home l) k

def State.invalLine (s : State) (l : Nat) : State := (s.evictLine l).dropL1s l

def State.unpinLine (s : State) (l : Nat) : State :=
  let x := s.llcLine l
  if x.pinned then (s.setLlc l { x with pinned := false, age := 2 }).regroup l else s

/-- Whether a line holds a poisoned sector. -/
def State.linePoisoned (s : State) (l : Nat) : Bool := (List.range 4).any fun i => s.poisoned (4 * l + i)

/-! ### Failing slots (R416, R421) -/

/-- A held line occupies this way of its set. -/
def State.slotHeld (s : State) (cl set way : Nat) : Bool :=
  s.versions.any fun v => v.2.lines.any fun p => s.home p.1 == cl && s.setIdx p.1 == set && p.2.way == way

/-- A further failing slot of a set stays in use and sets FULLSET, once (R421). -/
def State.slotStays (s : State) (key : Nat) : State :=
  if s.mem.slotFull.has key then s
  else ({ s with mem := { s.mem with slotFull := s.mem.slotFull.add key } } : State).orReg (wLLC + 0x30) (BitVec.ofNat 64 (2 ^ 63))

/-- Retire a slot of a slice whose errors have reached 3, unless a held line is in it; at most 4 of a set. -/
def State.retireSlot (s : State) (key : Nat) : State :=
  let cl := key / 2 ^ 18
  let set := key % 2 ^ 18 / 16
  let way := key % 16
  if s.mem.slotRet.has key || s.slotHeld cl set way then s
  else if ((List.range 16).filter fun w => s.mem.slotRet.has (slotKey cl set w)).length ≥ 4 then s.slotStays key
  else
    let gone := s.mem.llc.filter fun p => s.home p.1 == cl && s.setIdx p.1 == set && p.2.way == way
    let s := gone.foldl (fun (s : State) (p : Nat × LlcLine) => s.evictLine p.1) s
    let s := { s with mem := { s.mem with slotRet := s.mem.slotRet.add key } }
    (s.history 0x08 0 cl (BitVec.ofNat 64 set) (BitVec.ofNat 32 way)).syncHealth

/-- Retire the slots that have failed and can leave service (R421). -/
def State.retireSlots (s : State) : State :=
  s.mem.slotErr.foldl (fun s p => if p.2 ≥ 3 then s.retireSlot p.1 else s) s

/-- A way of an L1 set whose errors have reached 3 is retired, at most 2 of a set (R421). -/
def State.retireL1 (s : State) (key : Nat) : State :=
  let n := key / 2 ^ 12
  let set := key % 2 ^ 12 / 8
  let way := key % 8
  if s.mem.l1Ret.has key || Tab.get 0 s.mem.l1Err key < 3 then s
  else if ((List.range 8).filter fun w => s.mem.l1Ret.has (l1Key n set w)).length ≥ 2 then s.slotStays (2 ^ 40 + key)
  else
    let s := s.updCore n fun c => { c with l1 := c.l1.filter fun p => !(l1SetIdx p.1 == set && p.2.way == way) }
    let s := { s with mem := { s.mem with l1Ret := s.mem.l1Ret.add key } }
    (s.history 0x08 0 (0x100 + n) (BitVec.ofNat 64 set) (BitVec.ofNat 32 way)).syncHealth

/-- A parity error in a slot, 3 at once where the refetch met it again (R416). -/
def State.slotError (s : State) (key : Nat) (again : Bool) : State :=
  let k := Tab.get 0 s.mem.slotErr key
  ({ s with mem := { s.mem with slotErr := Tab.set 0 s.mem.slotErr key (if again then max 3 (k + 1) else k + 1) } } : State).retireSlots

def State.l1Error (s : State) (key : Nat) (again : Bool) : State :=
  let k := Tab.get 0 s.mem.l1Err key
  ({ s with mem := { s.mem with l1Err := Tab.set 0 s.mem.l1Err key (if again then max 3 (k + 1) else k + 1) } } : State).retireL1 key

/-! ### Errors on the way to a core (R282, R405) -/

/-- Poison the held bytes of a sector of a version (R282). -/
def State.poisonHeld (s : State) (v sec : Nat) : State :=
  let x := s.ver v
  let h := Tab.get HeldLine.reset x.lines (sec / 4)
  let h : HeldLine := { h with poison := h.poison ||| BitVec.ofNat 4 (2 ^ (sec % 4)) }
  s.setVer v { x with lines := Tab.put x.lines (sec / 4) h }

/-- Whether a version holds bytes of a sector. -/
def State.heldSector (s : State) (v sec : Nat) : Bool :=
  (Tab.get HeldLine.reset (s.ver v).lines (sec / 4)).mask.extractLsb' (32 * (sec % 4)) 32 != 0

/-- A sector of a remote line leaves the slice, to be read again from its home device (R282). -/
def State.dropRSector (s : State) (sec : Nat) : State :=
  let l := sec / 4
  let keep : BitVec 4 := ~~~(BitVec.ofNat 4 (2 ^ (sec % 4)))
  let x := s.llcLine l
  let y := Tab.get RLine.reset s.mem.rlines l
  if x.valid &&& keep = 0 then { s with mem := { s.mem with llc := s.mem.llc.erase l, rlines := s.mem.rlines.erase l } }
  else
    let s := s.setLlc l { x with valid := x.valid &&& keep, poison := x.poison &&& keep }
    let y : RLine := { y with valid := y.valid &&& keep, poison := y.poison &&& keep }
    { s with mem := { s.mem with rlines := Tab.set RLine.reset s.mem.rlines l y } }

/-- An error strikes a sector on its way to core `n` (R282, R405). -/
def State.upset (s : State) (n : Nat) (u : Upset) : State :=
  let c := s.core n
  match u with
  | .l1 sec again =>
    let l := sec / 4
    let x := c.l1Line l
    let bit : BitVec 4 := BitVec.ofNat 4 (2 ^ (sec % 4))
    if x.valid &&& bit = 0 then s
    else
      let s := (s.setCore n (c.dropL1 l)).countCore n 0x56 1
      let s := s.l1Error (l1Key n (l1SetIdx l) x.way) again
      if again then (s.l1Fill n l bit bit x.held false).poisonMade n sec 3 else s
  | .slice sec again =>
    let l := sec / 4
    let bit : BitVec 4 := BitVec.ofNat 4 (2 ^ (sec % 4))
    let cl := s.home l
    match (match c.heldVer with
      | some v => if s.heldSector v sec then some v else none
      | none => none) with
    | some v =>
      let w := (Tab.get HeldLine.reset (s.ver v).lines l).way
      (((s.poisonHeld v sec).countDev 0x86 cl 1).poisonMade cl sec 2).slotError (slotKey cl (s.setIdx l) w) false
    | none =>
      let x := s.llcLine l
      if x.valid &&& bit = 0 then s
      else
        let s := s.countDev 0x86 cl 1
        let s :=
          if x.dirty &&& bit ≠ 0 then (s.poison sec).poisonMade cl sec 2
          else if again then
            let s := s.setLlc l { x with poison := x.poison ||| bit }
            let y := Tab.get RLine.reset s.mem.rlines l
            let s : State := if isRemoteLine l then
                { s with mem := { s.mem with rlines := Tab.set RLine.reset s.mem.rlines l { y with poison := y.poison ||| bit } } }
              else s
            s.poisonMade cl sec 3
          else if isRemoteLine l then s.dropRSector sec
          else s.readSector sec
        s.slotError (slotKey cl (s.setIdx l) x.way) (again && x.dirty &&& bit == 0)
  | .path sec again =>
    if !again then s
    else
      let l := sec / 4
      let bit : BitVec 4 := BitVec.ofNat 4 (2 ^ (sec % 4))
      (s.l1Fill n l bit bit false false).poisonMade n sec 3
  | .reg code => s.updCore n fun c => { c with parity := if c.parity.contains code then c.parity else code :: c.parity }
  | .tile t r => s.updCore n fun c =>
    let x := c.arch.tile t
    if x.valid then { c with arch := c.arch.setTile t { x with poison := x.poison ||| BitVec.ofNat 64 (2 ^ r) } } else c
  | .dot _ _ _ => s

end Sys2Proof.Machine
end

