-- ==== Sys2Proof/Machine/Fabric.lean ====
section
/-! DEFINITION. Pelvar as the device's own side uses it: global addresses (R332), paths (R334), packets
(R354, R355), trackers (R336), stores in order (R337), late-store logging (R112). -/

namespace Sys2Proof.Machine

/-! ### Registers -/

def State.devnum (s : State) : Nat := s.regF wPEL 15 0
def State.part (s : State) : Nat := s.regF wPEL 63 48
def State.pelEn (s : State) : Bool := (s.reg (wPEL + 8)).toNat.testBit 0
def State.maxHop (s : State) : Nat := s.regF (wPEL + 8) 11 8
def State.timeout (s : State) : Nat := s.regF (wPEL + 0x10) 23 0
/-- PEL_STAT.NOVIS. -/
def State.novis (s : State) : Bool := s.tb.novis
/-- Ports that are UP, as a mask. -/
def State.portsUp (s : State) : Nat :=
  (List.range 16).foldl (fun m n => if (s.port n).state = .up then m + 2 ^ n else m) 0

/-! ### Paths (R334) -/

/-- Bits set in a 16-bit mask, rising. -/
def maskBits (m : Nat) : List Nat := (List.range 16).filter fun i => m.testBit i

/-- The port for a destination, none when it cannot be sent (R334). -/
def State.route (s : State) (src dst : Nat) : Option Nat :=
  let e := if dst / 16 = s.devnum / 16 then s.reg (wPEL + 0x200 + 8 * (dst % 16))
           else s.reg (wPEL + 0x1000 + 8 * (dst / 16))
  let m := maskBits ((e.toNat % 65536) &&& s.portsUp)
  if m.length = 0 then none else m[(src + dst) % m.length]?

/-! ### Packets (R354) -/

/-- Header bytes 0 to 27 of a packet. -/
def packetHead (p : Packet) : List Byte :=
  bytesOf 4 (p.kind.toNat * 2 ^ 28 + p.gen.toNat * 2 ^ 26 + p.hops.toNat * 2 ^ 22 + p.rsvd.toNat * 2 ^ 20 + p.tag.toNat) ++
  bytesOf 2 p.dst.toNat ++ bytesOf 2 p.src.toNat ++ bytesOf 2 p.part.toNat ++ bytesOf 1 p.estamp.toNat ++
  bytesOf 1 p.status.toNat ++ bytesOf 4 p.aux.toNat ++ bytesOf 8 p.addr.toNat ++ bytesOf 4 p.len.toNat

def packetCrc (p : Packet) : W32 := crc32 (packetHead p ++ p.payload)

/-- A packet with its ECRC. -/
def packetSeal (p : Packet) : Packet := { p with ecrc := packetCrc p }

/-- Whether a received packet is kept: a kind of R355, no reserved field, a good ECRC, and the payload that
LEN gives (LEN is the period in a TIME packet). -/
def packetGood (p : Packet) : Bool :=
  decide (1 ≤ p.kind.toNat ∧ p.kind.toNat ≤ 8) && p.rsvd == 0 && p.ecrc == packetCrc p && decide (p.gen.toNat ≤ 1) &&
    (p.kind == 8 || p.len.toNat == p.payload.length)

/-- Count a dropped packet (R335, R354). -/
def State.dropped (s : State) : State := s.bump (wPEL + 0x28) 31 16 1

/-- The 256 bytes of a flit with the acknowledgement and the credits that it carries (R353). One credit is room for one
flit, and the reserved bytes are 0 (log entry 123). -/
def Flit.bytes (f : Flit) (ack : Nat) (nak : Bool) (credits : Nat) : List Byte :=
  let body := f.stream ++ bytesOf 2 f.seq ++ bytesOf 2 (ack % 4096 + b1 nak * 2 ^ 15) ++ bytesOf 4 credits ++ bytesOf 4 0
  body ++ bytesOf 4 (crc32 body).toNat

/-- The last sequence number received well, and whether a replay from the next one is asked for. -/
def Port.lastGood (p : Port) : Nat := (p.seq + 4095) % 4096

/-- A flit goes onto the wire. -/
def State.sendFlit (s : State) (n : Nat) (f : Flit) : State :=
  let p := s.port n
  let b := f.bytes p.lastGood p.failed.isSome p.owed
  { s.setPort n { p with owed := 0 } with pel := { (s.setPort n { p with owed := 0 }).pel with wire := s.pel.wire ++ [(n, b)] } }

/-- Flits leave while there is packet stream and the other end has advertised room (R353). What fills a flit that the
stream does not fill is not stated. -/
def State.pump (n : Nat) : Nat → State → State
  | 0, s => s
  | k + 1, s =>
    let p := s.port n
    if p.state != .up || p.stream.isEmpty || p.room == 0 then s
    else
      let fill := List.replicate (240 - p.stream.length) ((Config.freeValue s.free).setWidth 8 : Byte)
      let f : Flit := ⟨p.next, p.stream.take 240 ++ fill⟩
      State.pump n k ((s.setPort n { p with
        stream := p.stream.drop 240, next := (p.next + 1) % 4096, out := p.out ++ [f], room := p.room - 1 }).sendFlit n f)

/-- The bytes of a packet in the packet stream (R354). -/
def packetStream (p : Packet) : List Byte := packetHead p ++ bytesOf 4 p.ecrc.toNat ++ p.payload

/-- A packet leaves by a port: its bytes join the packet stream. -/
def State.emit (s : State) (port : Nat) (p : Packet) : State :=
  let q := s.port port
  let t : State := { s with pel := { s.pel with sent := s.pel.sent ++ [(port, p)] } }
  State.pump port 4096 ((t.setPort port { q with stream := q.stream ++ packetStream p }).countDev 0xC0 port
    ((32 + p.payload.length + 31) / 32))

/-- A packet of this device: HOPS is MAXHOP, PART and SRC its own (R335, R354). -/
def State.packet (s : State) (kind dst : Nat) (tag : Nat) (gen : BitVec 2) (aux : Nat) (addr len : Nat)
    (estamp status : Nat) (payload : List Byte) : Packet :=
  packetSeal
    { kind := BitVec.ofNat 4 kind, gen := gen, hops := BitVec.ofNat 4 s.maxHop, rsvd := 0, tag := BitVec.ofNat 20 tag,
      dst := BitVec.ofNat 16 dst, src := BitVec.ofNat 16 s.devnum, part := BitVec.ofNat 16 s.part,
      estamp := BitVec.ofNat 8 estamp, status := BitVec.ofNat 8 status, aux := BitVec.ofNat 32 aux,
      addr := BitVec.ofNat 64 addr, len := BitVec.ofNat 32 len, ecrc := 0, payload := payload }

/-! ### Where a global address is served (R332) -/

inductive Served where
  | refused
  | here (pa : Nat)
  | away (dev : Nat)
deriving DecidableEq, Repr

/-- R332, with the refusals of a device that cannot send (R334, R362, R422). -/
def State.served (s : State) (ga : Nat) : Served :=
  let d := gDevice ga
  if d = 0xFFFF ∨ s.devnum = 0xFFFF then .refused
  else if d = s.devnum then .here (gLocal ga)
  else if gLocal ga ≥ Config.memTop then .refused
  else if !s.pelEn || s.fault.fatal then .refused
  else if (s.route s.devnum d).isNone then .refused
  else .away d

/-! ### Late store errors (R112, R113) -/

/-- Log a failed store of a core; pending and counted by R105. -/
def Core.logStore (c : Core) (addr : Nat) (pl : BitVec 2) (kind : BitVec 2) (remote : Bool) : Core :=
  let sec : W64 := BitVec.ofNat 64 (addr / 32 * 32)
  let full := decide (c.lse.length ≥ 8)
  let c : Core := if full then { c with lost := min 255 (c.lost + 1) }
    else { c with lse := c.lse ++ [⟨sec, pl, kind⟩] }
  let c : Core := { c with task := c.task.map fun t => { t with late := true } }
  let k := b1 (!full)
  if remote then { c with pend := { c.pend with rstore := true, rstoreCount := c.pend.rstoreCount + k } }
  else { c with pend := { c.pend with lse := true, lseCount := c.pend.lseCount + k } }

/-- A core in a per-core reset logs nothing (R439). -/
def State.logStore (s : State) (n addr : Nat) (pl kind : BitVec 2) (remote : Bool) : State :=
  s.updCore n fun c => if c.resetting then c else c.logStore addr pl kind remote

/-! ### Trackers (R336) -/

def State.tracker (s : State) (t : Nat) : Option Tracker := Tab.get none s.pel.trackers t
def State.setTracker (s : State) (t : Nat) (x : Option Tracker) : State :=
  { s with pel := { s.pel with trackers := Tab.set none s.pel.trackers t x,
                               used := Tab.set 0 s.pel.used t (s.tb.now + 1) } }

/-- Tags that may be used: free, and not used within 4 × TIMEOUT (R336). -/
def State.freeTags (s : State) : List Nat :=
  (List.range Config.trackers).filter fun t =>
    (s.tracker t).isNone &&
      (Tab.get 0 s.pel.used t == 0 || decide (Tab.get 0 s.pel.used t + 4 * s.timeout ≤ s.tb.now + 1))

/-- Send a request and hold a tracker; none where no tag is free. -/
def State.request (s : State) (dst : Nat) (mk : Nat → Packet) (o : Origin) (also : List Origin) (e : Option SbEntry) :
    Option State :=
  match s.freeTags with
  | [] => none
  | tags =>
    let t := tags.getD (Config.pick s.free % tags.length) 0
    let s := s.draw
    match s.route s.devnum dst with
    | none => none
    | some port => some ((s.setTracker t (some ⟨mk t, o, also, s.tb.now, s.tb.epoch, e, false⟩)).emit port (mk t))

/-- Whether a WR to a sector is outstanding (R337). -/
def State.wrOutstanding (s : State) (sec : Nat) : Bool :=
  s.pel.trackers.any fun p => match p.2 with
    | some t => match t.entry with
      | some e => e.addr.toNat / 32 == sec
      | none => false
    | none => false

/-- Mask and data of a WR for one sector of a line: the 16-byte mask, then the sector (R355). -/
def wrPayload (e : SbEntry) : List Byte :=
  let q := (e.addr.toNat / 32) % 4
  bytesOf 16 (e.mask.toNat <<< (32 * q)) ++ bytesOf 32 e.data.toNat

/-- A store buffered whole as a dead line stands as four sector entries of zeros on a remote line (R279). -/
def deadParts (e : SbEntry) : List SbEntry :=
  if e.dead then (List.range 4).map fun i =>
    { e with addr := e.addr + BitVec.ofNat 64 (32 * i), mask := BitVec.allOnes 32, data := 0, dead := false,
             count := if i = 0 then e.count else 0 }
  else [e]

/-- Byte `i` of the sector after a store, for the byte that stood there (R128). -/
def SbEntry.over (e : SbEntry) (i : Nat) (old : Byte) : Byte :=
  let k := byteAt e.keep i
  (byteAt e.data i &&& ~~~k) ||| (old &&& k)

/-- The data of a store over the bytes that stand at its home. -/
def SbEntry.settled (e : SbEntry) (old : Nat → Byte) : Sector :=
  if e.keep = 0 then e.data
  else (List.range 32).foldl (fun d i => putByte d i (e.over i (old i))) 0

/-- The bytes of a sector under a store to it. -/
def SbEntry.onSector (e : SbEntry) (d : Sector) : Sector :=
  (List.range 32).foldl (fun (d : Sector) i => if e.mask.toNat.testBit i then putByte d i (e.over i (byteAt d i)) else d) d

/-- Bytes of a store enter what a waiting load of the same core has already received of its sector (R130, R341). -/
def RemoteData.under (e : SbEntry) : RemoteData → RemoteData
  | .data a d bad => if a = e.addr then .data a (e.onSector d) bad else .data a d bad
  | .failed a => .failed a
  | .old a v bad => .old a v bad
  | .stored a good => .stored a good

/-- Bytes of a store enter the device's own copy of a remote line (R341), and what loads that wait have received. -/
def State.ownCopy (s : State) (e : SbEntry) : State :=
  let s := s.cores.foldl (fun (s : State) (p : Nat × Core) =>
    if p.2.remote.isEmpty then s else s.updCore p.1 fun c => { c with remote := c.remote.map (RemoteData.under e) }) s
  let l := e.addr.toNat / 128
  let x := Tab.get RLine.reset s.mem.rlines l
  let q := (e.addr.toNat / 32) % 4
  if x.valid.toNat.testBit q then
    let d := (List.range 32).foldl (fun d i =>
      if e.mask.toNat.testBit i then putByte d (32 * q + i) (e.over i (byteAt d (32 * q + i))) else d) x.data
    { s with mem := { s.mem with rlines := Tab.set RLine.reset s.mem.rlines l { x with data := d } } }
  else s

/-- Merge two stores to one sector, the second the younger (R257, R337). -/
def SbEntry.merge (a b : SbEntry) : SbEntry :=
  let d := (List.range 32).foldl (fun d i =>
    if b.mask.toNat.testBit i then putByte d i (if a.mask.toNat.testBit i then b.over i (byteAt d i) else byteAt b.data i)
    else d) a.data
  let k := (List.range 32).foldl (fun k i =>
    if b.mask.toNat.testBit i then
      putByte k i (if a.mask.toNat.testBit i then byteAt k i &&& byteAt b.keep i else byteAt b.keep i)
    else k) a.keep
  { a with mask := a.mask ||| b.mask, data := d, poison := b.poison || (a.poison && !(b.mask == BitVec.allOnes 32 && b.keep == 0)), pl := b.pl, hint := b.hint, keep := k,
           part := (a.part &&& ~~~b.mask) ||| b.part, count := a.count + b.count }

/-- An agent hears that its store failed. -/
def State.storeFailed (s : State) (o : Origin) (e : SbEntry) (kind : BitVec 2) : State :=
  match o with
  | .store n pl => s.logStore n e.addr.toNat pl kind true
  | .packed n pl => s.logStore n e.addr.toNat pl kind true
  | .version _ n t pl =>
    -- The report of its task, if firmware holds it still, says that a store failed (R224).
    let s := s.logStore n e.addr.toNat pl kind true
    { s with ctl := { s.ctl with ends := s.ctl.ends.map fun (r : Option Nat × TaskReport) =>
      if r.2.seq = t then (r.1, { r.2 with late := true }) else r } }
  | .copy id =>
    -- A refused or poisoned store is answered (R395); one that fails by R350 is not.
    { s with ctl := { s.ctl with copies := s.ctl.copies.map fun c =>
      if c.id = id then { c with bad := c.bad || kind == 2 } else c } }
  | .push n => s.updCore n fun c => { c with remote := c.remote ++ [.stored e.addr false] }
  | .load _ => s
  | .atomic _ => s
  | .collective _ _ => s

/-- Every agent of a failed store hears of it. -/
def State.storesFailed (s : State) (os : List Origin) (e : SbEntry) (kind : BitVec 2) : State :=
  os.foldl (fun s o => s.storeFailed o e kind) s

/-- Lowest aligned word of a sector that holds bytes written by atomics (R517). -/
def SbEntry.partWord (e : SbEntry) : Nat := ((List.range 8).find? fun w => (e.part.toNat >>> (4 * w)) % 16 != 0).getD 0

/-- Bits of a word that a packed store writes. -/
def SbEntry.wordBits (e : SbEntry) (w : Nat) : Nat :=
  ((List.range 4).map fun i =>
    if e.part.toNat.testBit (4 * w + i) then (~~~byteAt e.keep (4 * w + i)).toNat <<< (8 * i) else 0).foldl (· + ·) 0

/-- What is left of a packed store once its lowest word is written. -/
def SbEntry.nextWord (e : SbEntry) : SbEntry :=
  let m : W32 := BitVec.ofNat 32 (15 <<< (4 * e.partWord))
  { e with mask := e.mask &&& ~~~m, part := e.part &&& ~~~m }

/-- The request that a store to another device makes next: the WR of its whole bytes, then for each word of
packed groups an `and` that clears its bits and an `or` that sets them (R355, R517). -/
def State.storePacket (s : State) (dev : Nat) (e : SbEntry) (cleared : Bool) (estamp : BitVec 48) (t : Nat) : Packet :=
  let la := gLocal (e.addr.toNat) / 128 * 128
  let q := (e.addr.toNat / 32) % 4
  let whole := e.mask &&& ~~~e.part
  if whole ≠ 0 ∨ e.part = 0 then
    s.packet 3 dev t 0 (2 ^ q) la 48 (estamp.toNat % 256) 0 (wrPayload { e with mask := whole })
  else
    let w := e.partWord
    let bits := e.wordBits w
    let v := if cleared then (e.data.toNat >>> (32 * w)) &&& bits else 2 ^ 32 - 1 - bits
    s.packet 5 dev t 0 (if cleared then 3 else 2) (gLocal (e.addr.toNat) + 4 * w) 16 0 0 (bytesOf 8 v ++ bytesOf 8 0)

/-- A store waits at the control die for its sector, merging with the stores already there, whoever made them (R337). -/
def State.waitStore (s : State) (o : Origin) (also : List Origin) (e : SbEntry) (cleared : Bool) : State :=
  let takes := fun (w : RWait) => w.entry.addr.toNat / 32 == e.addr.toNat / 32 && !w.cleared
  let rw := if !cleared && s.pel.rwait.any takes then s.pel.rwait.map fun w =>
              if takes w then { w with also := (w.also ++ o :: also).filter fun x => x != w.origin, entry := w.entry.merge e }
              else w
            else s.pel.rwait ++ [⟨o, also, e, cleared⟩]
  { s with pel := { s.pel with rwait := rw } }

/-- A remote store leaves the device, or waits behind the one outstanding to its sector (R337). False where no tracker is
free. -/
def State.sendPart (s : State) (o : Origin) (also : List Origin) (e : SbEntry) (cleared : Bool) (estamp : BitVec 48) :
    State × Bool :=
  match s.served e.addr.toNat with
  | .refused => (s.storesFailed (o :: also) e 3, true)
  | .here pa =>
    let r := s.commitSector none (pa / 32) e.mask (e.settled fun i => s.byte (pa / 32 * 32 + i)) e.poison (e.keep == 0) e.hint.toNat
    (if r.2 then r.1 else r.1.storesFailed (o :: also) e 0, true)
  | .away dev =>
    let s := s.ownCopy e
    let sec := e.addr.toNat / 32
    if s.wrOutstanding sec then (s.waitStore o also e cleared, true)
    else
      match s.request dev (s.storePacket dev e cleared estamp) o also (some e) with
      | none => (s, false)
      | some s => (s, true)

/-- A remote store is sent, but not past an older one of its sector that waits (R337). -/
def State.sendStore (s : State) (o : Origin) (e : SbEntry) (estamp : BitVec 48) : State × Bool :=
  let away := match s.served e.addr.toNat with
    | .away _ => true
    | _ => false
  if away && s.pel.rwait.any fun w => w.entry.addr.toNat / 32 == e.addr.toNat / 32 then
    ((s.ownCopy e).waitStore o [] e false, true)
  else s.sendPart o [] e false estamp

/-! ### Remote lines on the device (R340) -/

def State.cacheRemote (s : State) : Bool := (s.reg (wPEL + 8)).toNat.testBit 1 && !s.novis

/-- A remote line leaves the device's slice and L1s. -/
def State.dropRemote (s : State) (l : Nat) : State :=
  if (Tab.get RLine.reset s.mem.rlines l).valid = 0 then s.dropL1s l
  else (s.dropLine l).countDev 0x87 (s.home l) 1

/-- Every remote line leaves (R340, R347, R362). -/
def State.dropAllRemote (s : State) : State :=
  let s := s.mem.rlines.foldl (fun s p => s.dropRemote p.1) s
  s.cores.foldl (fun s p =>
    s.updCore p.1 fun c => { c with l1 := c.l1.filter fun q => !isRemoteLine q.1 }) s

end Sys2Proof.Machine
end

