-- ==== Sys2Proof/Machine/Service.lean ====
section
/-! DEFINITION. The standing of the engines: event windows (R210), engines in service, redirections that move on
(R211), copies of tiles in the operand caches (R168). -/

namespace Sys2Proof.Machine

/-- Events of a list that lie within the last 2^20 operations of an engine (R210). -/
def inWindow (ops : Nat) (l : List Nat) : List Nat := l.filter fun a => decide (ops < a + 2 ^ 20)

/-- Transient verdicts within the window that name a lane (R416, R430). -/
def Engine.hits (e : Engine) (lane : Nat) : Nat :=
  (inWindow e.ops ((e.laneHits.filter fun h => h.2 == lane).map fun h => h.1)).length

def Engine.inService (e : Engine) : Bool := e.state == .service && e.ok

/-- The engines of the cluster of an engine. -/
def clusterEngines (e : Nat) : List Nat := (List.range 32).map fun i => e / 32 * 32 + i

/-- The next engine of the cluster in service after `e`, counting upwards and wrapping; `e` where there is none
(R211). -/
def State.nextService (s : State) (e : Nat) : Nat :=
  (((List.range 31).map fun i => e / 32 * 32 + (e + i + 1) % 32).find? fun f => (s.eng f).inService).getD e

/-- An engine has left service: redirections that name it move on; the engines moved with their new REDIR. -/
def State.moveRedirs (s : State) (e : Nat) : State × List (Nat × Nat) :=
  (clusterEngines e).foldl (fun (r : State × List (Nat × Nat)) f =>
    let x := r.1.eng f
    if f ≠ e ∧ x.chkredir ∧ x.redir = e then
      let n := r.1.nextService f
      (r.1.setEng f { x with redir := n }, r.2 ++ [(f, n)])
    else r) (s, [])

/-- An engine leaves service by firmware's hand, which records the moves at once (R211, R214). -/
def State.leaveService (s : State) (e : Nat) : State :=
  let r := s.moveRedirs e
  r.2.foldl (fun (s : State) (m : Nat × Nat) => s.history 0x01 0 m.1 (BitVec.ofNat 64 m.2) 0) r.1

/-- No operand cache of its cluster holds one of a core's tiles any longer (R168). -/
def State.dropB (s : State) (n : Nat) (t : Nat → Bool) : State :=
  (List.range 32).foldl (fun (s : State) i =>
    let e := 32 * coreCluster n + i
    match (s.eng e).bheld with
    | some b => if b.1 = n ∧ t b.2 then s.updEng e fun x => { x with bheld := none } else s
    | none => s) s

end Sys2Proof.Machine
end

