-- ==== Sys2Proof/Machine/Versions.lean ====
section
/-! DEFINITION. Unsettled tile work put back (R110, R111), speculation versions and their verdicts (R232 to
R246), sheaves (R225) and the reports of tasks (R224, R245, R248). -/

namespace Sys2Proof.Machine

/-! ### Putting back older registers -/

/-- Registers as an older snapshot has them; the counters go on, but for PERF_INST (R110, R504). -/
def rollback (now old : Arch) : Arch :=
  let perf := fun (k : Nat) => decide (0x500 ≤ k) && k != 0x521
  let keep : Tab W64 := old.creg.filter fun p => !perf p.1
  let perfs : Tab W64 := now.creg.filter fun p => perf p.1
  { old with creg := perfs.foldl (fun (m : Tab W64) (p : Nat × W64) => Tab.set (cregReset p.1) m p.1 p.2) keep }

/-- Operations of a core from a number on leave the engines and the pool. -/
def State.stopRuns (s : State) (n : Nat) (p : Nat → Bool) : State :=
  let gone := fun (r : Option EngRun) => match r with
    | some r => r.core == n && p r.seq
    | none => false
  let s := (List.range 32).foldl (fun s i =>
    let g := 32 * coreCluster n + i
    let e := s.eng g
    if gone e.run0 || gone e.run1 then
      s.setEng g { e with run0 := if gone e.run0 then none else e.run0, run1 := if gone e.run1 then none else e.run1 }
    else s) s
  let q := s.pool (coreCluster n)
  s.setPool (coreCluster n) { replays := q.replays.filter fun r => !(r.core == n && p r.seq) }

/-- An operand cache that a per-core reset left to an operation of another core is zeroed (R439). -/
def State.zeroAfter (s : State) (n : Nat) (p : Nat → Bool) : State :=
  (List.range 32).foldl (fun s i =>
    let g := 32 * coreCluster n + i
    match (s.eng g).zeroDue with
    | some o => if o.1 = n ∧ p o.2 then s.updEng g fun e => { e with bheld := none, zeroDue := none } else s
    | none => s) s

/-- Every unsettled tile operation of a core is cancelled without writing; held results and stores of
younger instructions go with it (R110), and a copy of B taken from a staged tile is that tile's no longer (R168). -/
def State.cancelTops (s : State) (n : Nat) : State :=
  let c := s.core n
  match c.tops with
  | [] => s
  | o :: _ =>
    let s := s.dropB n fun t => c.staged.any fun p => p.1 == t
    ((s.stopRuns n fun _ => true).zeroAfter n fun _ => true).updCore n fun c =>
      { c with arch := rollback c.arch o.snap, tops := [], heldSt := [], staged := [] }

/-! ### Tasks that are over -/

/-- A placed task has ended (R227). -/
def State.endLive (s : State) (seq : Nat) : State := { s with live := s.live.filter fun p => p.1 != seq }

/-- A task is reported as discarded (R233, R245, R397). -/
def State.reportDiscarded (s : State) (unit : Nat) (d : TaskDesc) : State :=
  s.report 0x02 unit d.taskid (BitVec.ofNat 64 d.version) d.addr

/-- The report of a task's end is posted (R224, R397). -/
def State.postEnd (s : State) (r : TaskReport) : State :=
  s.report 0x01 r.core r.taskid (BitVec.ofNat 64 (r.status.toNat + 256 * b1 r.late)) r.desc

/-- Whether remote stores that a version held are still to be sent or answered (R244, R249). -/
def State.versionOut (s : State) (v : Nat) : Bool :=
  let of := fun (o : Origin) => match o with
    | .version w _ _ _ => w == v
    | _ => false
  ((s.ver v).committing && !(s.ver v).remote.isEmpty) ||
    (s.pel.trackers.any fun t => match t.2 with
      | some t => (t.origin :: t.also).any of
      | none => false) || s.pel.rwait.any fun w => (w.origin :: w.also).any of

/-- Firmware posts the end reports that it holds, in order, while the stores they stand for have arrived (R249). -/
def State.postEnds : Nat → State → State
  | 0, s => s
  | k + 1, s =>
    match s.ctl.ends with
    | [] => s
    | (v, r) :: t =>
      if (match v with
        | some v => s.versionOut v
        | none => false) then s
      else State.postEnds k (({ s with ctl := { s.ctl with ends := t } } : State).postEnd r)

/-- An end report passes to firmware, behind those held back (R224, R249); `v` is a version that has just committed. -/
def State.reportEnd (s : State) (v : Option Nat) (r : TaskReport) : State :=
  if s.ctl.ends.isEmpty && v.isNone then s.postEnd r
  else { s with ctl := { s.ctl with ends := s.ctl.ends ++ [(v, r)] } }

/-- Post what can be posted. -/
def State.flushEnds (s : State) : State := State.postEnds s.ctl.ends.length s

/-- Every L1 line that a core filled from a held line is invalidated (R236). -/
def Core.dropHeldL1 (c : Core) : Core := { c with l1 := c.l1.filter fun p => !p.2.held }

/-! ### Versions -/

/-- Cores that run a task of a version (R247). -/
def State.runners (s : State) (v : Nat) : List Nat :=
  (s.cores.filter fun p => match p.2.task with
    | some t => t.q.spec && t.q.d.version == v
    | none => false).map fun p => p.1

/-- The remote stores that entries stand for (R237). -/
def storeCount (es : List SbEntry) : Nat := es.foldl (fun n e => n + e.count) 0

/-- Held lines plus held remote stores (R237). -/
def Version.foot (v : Version) : Nat := v.lines.length + storeCount (v.remote.map fun r => r.entry)

/-- Lines that stores of a version on their way to the home slice will still hold (R237). -/
def State.comingLines (s : State) (v : Nat) : List Nat :=
  let ent := s.cores.foldl (fun acc p =>
    acc ++ (p.2.sb.filter fun e => e.ver == some v) ++
      ((p.2.heldSt.map fun h => h.entry).filter fun e => e.ver == some v)) []
  let ls := (ent.filter fun e => !e.addr.toNat.testBit 63).map fun e => e.addr.toNat / 128
  (ls.filter fun l => !(((s.ver v).lines.map fun p => p.1).contains l)).eraseDups

/-- Remote stores of a version on their way to be held. -/
def State.comingRemote (s : State) (v : Nat) : Nat :=
  s.cores.foldl (fun n p => n + storeCount ((p.2.sb ++ p.2.heldSt.map fun h => h.entry).filter fun e =>
    e.ver == some v && e.addr.toNat.testBit 63)) 0

def footLimit : Nat := 65536

/-- The footprint with what is on its way. -/
def State.footNow (s : State) (v : Nat) : Nat := (s.ver v).foot + (s.comingLines v).length + s.comingRemote v

/-- LLC_VERn.SETSTALL (R238): a store of the version waits for a way, at issue or in its store buffer. -/
def State.setStalled (s : State) (v : Nat) : Bool :=
  (s.cores.any fun p => (p.2.wait == .setWay || p.2.wait == .push true) && p.2.heldVer == some v) ||
    (s.comingLines v).any fun l => decide ((s.setHeld l).length ≥ 4)

/-- The least recently used pinned line of the set of a line is demoted (R238). -/
def State.demoteOldest (s : State) (l : Nat) : State :=
  match ((s.setLines l).filter fun p => p.2.pinned).foldl (fun (m : Option (Nat × LlcLine)) p =>
      match m with
      | none => some p
      | some q => if p.2.used < q.2.used then some p else some q) none with
  | some p => ((s.setLlc p.1 { p.2 with pinned := false, age := 2 }).regroup p.1).demoted p.1
  | none => s

/-- Pinned lines of a set are demoted until a further held line fits beside the pinned and held ones (R238, R421). -/
def State.makeHeldRoom (l : Nat) : Nat → State → State
  | 0, s => s
  | n + 1, s =>
    if (pinnedWays (s.setLines l)).length + (s.setHeld l).length + 1 ≤ 14 - (s.setRetired l).length then s
    else State.makeHeldRoom l n (s.demoteOldest l)

/-- A way for a held line: at most 4 held lines in a set, at most 14 ways pinned or held. None where the set already
holds 4. -/
def State.holdWay (s : State) (l : Nat) : Option (State × Nat) :=
  if (s.setHeld l).length ≥ 4 then none else some ((State.makeHeldRoom l 32 s).makeWay l)

/-- A store of a version enters its held line (R236). False where its set has no way for it (R238). -/
def State.holdStore (s : State) (v : Nat) (e : SbEntry) : State × Bool :=
  let l := e.addr.toNat / 128
  let ver := s.ver v
  let have_ := ver.lines.any fun p => p.1 == l
  match (if have_ then some (s, (Tab.get HeldLine.reset ver.lines l).way) else s.holdWay l) with
  | none => (s, false)
  | some (s, w) =>
    let h := Tab.get HeldLine.reset (s.ver v).lines l
    let h' :=
      if e.dead then
        { h with mask := BitVec.allOnes 128, data := 0, poison := 0, way := w, dead := true, late := 0, whole := 0, keep := 0 }
      else
        let q := (e.addr.toNat / 32) % 4
        let m : BitVec 128 := BitVec.ofNat 128 (e.mask.toNat <<< (32 * q))
        let bit : BitVec 4 := BitVec.ofNat 4 (2 ^ q)
        let had := fun (i : Nat) => h.mask.toNat.testBit (32 * q + i)
        let d := (List.range 32).foldl (fun d i =>
          if e.mask.toNat.testBit i then
            putByte d (32 * q + i) (if had i then e.over i (byteAt d (32 * q + i)) else byteAt e.data i)
          else d) h.data
        let k := (List.range 32).foldl (fun k i =>
          if e.mask.toNat.testBit i then
            putByte k (32 * q + i) (if had i then byteAt k (32 * q + i) &&& byteAt e.keep i else byteAt e.keep i)
          else k) h.keep
        let whole := e.mask == BitVec.allOnes 32 && e.keep == 0
        { h with
          mask := h.mask ||| m, data := d, way := w, late := h.late ||| m, keep := k
          whole := if whole then h.whole ||| bit else h.whole
          poison := if e.poison then h.poison ||| bit else if whole then h.poison &&& ~~~bit else h.poison }
    (s.setVer v { s.ver v with lines := Tab.put (s.ver v).lines l h' }, true)

/-- A verdict can still decide a version (R240). -/
def Version.undecided (v : Version) : Bool := (v.state == .opened || v.state == .closed) && !v.committing

/-- A remote store of core `n` is held in a version; one whose version is decided against is dropped (R239, R245). -/
def State.holdRemote (s : State) (n v : Nat) (e : SbEntry) : State :=
  let t := match (s.core n).task with
    | some t => t.q.seq
    | none => 0
  if (s.ver v).undecided then
    s.updVer v fun x => { x with remote := x.remote ++ (deadParts e).map fun e => ⟨n, t, e⟩ }
  else s

/-- A cause becomes pending on a core with a mask bit (R108). -/
def Core.pendVerdict (c : Core) (v : Nat) : Core :=
  { c with pend := { c.pend with verdict := true, verdictMask := c.pend.verdictMask ||| BitVec.ofNat 64 (2 ^ v) } }

/-- Waits that a verdict ends (R244, R238). -/
def Core.wakeVerdict (c : Core) : Core :=
  match c.wait with
  | .verdict => { c with wait := .none }
  | .setWay => { c with wait := .none }
  | .push _ => { c with wait := .none }
  | _ => c

/-- A core that ran a task of a discarded version: its cause 0x22 is pending, and a delivery whose push waited in the
version gives way to it (R245, R516). -/
def Core.dropTask (c : Core) (v : Nat) : Core :=
  let gives := match c.wait with
    | .push _ => true
    | _ => false
  let c := (c.wakeVerdict.dropHeldL1).pendVerdict v
  if gives then { c with wait := .delivery } else c

/-- A version is FREE again: its footprint fields are zero, its record stays (R247). -/
def Version.freed (v : Version) : Version :=
  { v with state := .free, lines := [], remote := [], adds := [], ends := [], cap := 0,
           guardSheaf := 0xFFFF, finite := false, guardCount := 0, committing := false }

/-- The bytes of a held line join the committed line (R244, R236, R412). -/
def State.mergeHeld (s : State) (l : Nat) (h : HeldLine) : State :=
  let s := if h.dead then s.deadLine l else s
  let m := if h.dead then h.late else h.mask
  (List.range 4).foldl (fun s q =>
    let mask : W32 := m.extractLsb' (32 * q) 32
    if mask = 0 then s
    else
      let d : Sector := h.data.extractLsb' (256 * q) 256
      let k : Sector := h.keep.extractLsb' (256 * q) 256
      let d := if k = 0 then d else (List.range 32).foldl (fun d i =>
        putByte d i ((byteAt d i &&& ~~~(byteAt k i)) ||| (s.byte (32 * (4 * l + q) + i) &&& byteAt k i))) d
      (s.commitSector none (4 * l + q) mask d (h.poison.toNat.testBit q) (h.whole.toNat.testBit q) 0).1) s

/-- Saturating addition to a sheaf (R225). -/
def State.addSheaf (s : State) (n k : Nat) : State :=
  if n < Config.sheaves then s.setSheaf n (BitVec.ofNat 32 (min 0xFFFFFFFF ((s.sheaf n).toNat + k))) else s

/-- A commit takes effect in one step (R244). `source` is that of the VERDICT report. -/
def State.commit (s : State) (v source : Nat) : State :=
  let ver := s.ver v
  let run := s.runners v
  let s := ver.lines.foldl (fun s p => s.mergeHeld p.1 p.2) s
  let s := ver.adds.foldl (fun s p => s.addSheaf p.1 p.2) s
  let s := ver.ends.foldl (fun s r => s.reportEnd (some v) r) s
  -- Stores on their way and cores: no longer speculative.
  let s := s.cores.foldl (fun (s : State) (p : Nat × Core) => s.updCore p.1 fun c =>
    let clr := fun (e : SbEntry) => (if e.ver = some v then { e with ver := none } else e : SbEntry)
    let c : Core := { c with sb := c.sb.map clr, heldSt := c.heldSt.map fun h => { h with entry := clr h.entry } }
    let c := c.wakeVerdict
    if run.contains p.1 then
      let c : Core := (c.setSpec false).dropHeldL1
      let c : Core := { c with task := c.task.map fun t => { t with q := { t.q with spec := false } } }
      c.pendVerdict v
    else c) s
  let s := { s with queues := s.queues.map fun (p : Nat × List QTask) =>
    (p.1, p.2.map fun (t : QTask) => if t.spec ∧ t.d.version = v then { t with spec := false } else t) }
  let s := s.updVer v fun x =>
    let x : Version := { x with last := 1, lines := [], adds := [], ends := [], made := s.tb.epoch }
    if x.remote.isEmpty then x.freed else { x with committing := true }
  ((s.flushEnds.report 0x04 noUnit (BitVec.ofNat 32 v) 1 (BitVec.ofNat 64 source)).countDev 0xE0 v 1).retireSlots

/-- A discard takes effect in one step (R245). `defer` is LLC_VERn.DEFER. -/
def State.discard (s : State) (v source : Nat) (defer : Bool) : State :=
  let ver := s.ver v
  let run := s.runners v
  let queued := s.queues.foldl (fun (acc : List QTask) (p : Nat × List QTask) => acc ++ p.2.filter fun t => t.spec && t.d.version == v) []
  let s := { s with queues := (s.queues.map fun (p : Nat × List QTask) =>
    (p.1, p.2.filter fun (t : QTask) => !(t.spec && t.d.version == v))).filter fun p => !p.2.isEmpty }
  let s := queued.foldl (fun s t => (s.endLive t.seq).reportDiscarded noUnit t.d) s
  let s := ver.ends.foldl (fun s r =>
    s.report 0x02 r.core r.taskid (BitVec.ofNat 64 v) r.desc) s
  let s := run.foldl (fun s n => s.cancelTops n) s
  let s := s.cores.foldl (fun (s : State) (p : Nat × Core) => s.updCore p.1 fun c =>
    let c : Core := { c with sb := c.sb.filter fun e => e.ver != some v,
                             heldSt := c.heldSt.filter fun h => h.entry.ver != some v }
    if run.contains p.1 then c.dropTask v else c.wakeVerdict) s
  let s := s.updVer v fun x =>
    let x : Version := { x with last := 2, lines := [], remote := [], adds := [], ends := [], defer := defer }
    if run.isEmpty then x.freed else { x with state := .discarding }
  let s := s.report 0x04 noUnit (BitVec.ofNat 32 v) (BitVec.ofNat 64 (2 + 256 * b1 defer)) (BitVec.ofNat 64 source)
  let s := if defer then s.countDev 0xE3 v 1 else s
  (s.countDev 0xE1 v 1).retireSlots

/-- The guard of an undecided version is met (R241): its sheaf has reached COUNT, or NF decides. -/
def State.guardMet (s : State) (v : Nat) : Option Bool :=
  let x := s.ver v
  if !x.undecided then none
  else if x.finite && x.nf then some false
  else if decide (x.guardSheaf < Config.sheaves) && decide (x.guardCount ≤ (s.sheaf x.guardSheaf).toNat) then some true
  else none

/-- Guards act one at a time (R240, R241); each verdict decides one version, so as many turns suffice as
there are versions. -/
def State.guards : Nat → State → State
  | 0, s => s
  | k + 1, s =>
    match (List.range Config.versions).find? fun v => (s.guardMet v).isSome with
    | none => s
    | some v => State.guards k (if s.guardMet v = some true then s.commit v 2 else s.discard v 2 false)

/-- A committed addition to a sheaf, with the guards it meets (R225, R241). -/
def State.signalSheaf (s : State) (n k : Nat) : State := State.guards Config.versions (s.addSheaf n k)

/-- NF of a version is set by a raise of NV, DZ or OF of a watching task (R242). -/
def State.noteFlags (s : State) (n : Nat) (fl : BitVec 7) : State :=
  let c := s.core n
  match c.task with
  | none => s
  | some t =>
    if fl &&& 0x1C = 0 ∨ c.pl = 3 ∨ !t.q.d.watch then s
    else
      let w := t.q.d.watchv
      if (s.ver w).undecided then State.guards Config.versions (s.updVer w fun x => { x with nf := true }) else s

/-- A core stands at a task boundary (R224): self-tests of its engines that are due start, and a core test
begins (R390, R416). -/
def State.taskBoundary (s : State) (n : Nat) : State :=
  let core := s.ctl.coreTests.any fun t => t.core == n
  let s := (List.range 8).foldl (fun (s : State) i =>
    let e := s.eng (8 * n + i)
    if e.state = .retired then s
    else if (core || e.testDue) && e.state == .service then
      (s.setEng (8 * n + i) { e with ok := false, state := .testing, testDue := false }).leaveService (8 * n + i)
    else if e.testDue then s.setEng (8 * n + i) { e with testDue := false }
    else s) s
  { s with ctl := { s.ctl with coreTests := s.ctl.coreTests.map fun (t : CoreTest) =>
    if t.core = n then { t with running := true } else t } }

/-- A core that ran a task of a discarded version takes its 0x22 (R245): SPEC and ACTIVE become 0, FPCSR
returns to its value at the task's beginning, and the task is reported as discarded. -/
def State.finishDiscard (s : State) (n : Nat) : State :=
  match (s.core n).task with
  | none => s
  | some t =>
    if t.q.spec ∧ (s.ver t.q.d.version).state = .discarding then
      let s := s.updCore n fun c =>
        { ((c.setSpec false).mapArch fun a => a.setCr nFPCSR t.fpcsr).dropHeldL1 with task := none }
      let s := ((s.endLive t.q.seq).reportDiscarded n t.q.d).taskBoundary n
      if (s.runners t.q.d.version).isEmpty then s.updVer t.q.d.version Version.freed else s
    else s

/-- The deferred-fault record, when it is empty (R246). -/
def Version.record (v : Version) (core cause : Nat) (task : W32) (tval : W64) : Version :=
  if v.dfValid then v
  else { v with dfValid := true, dfCore := core, dfCause := cause, dfTask := task, dfTval := tval }

/-- The task of a reset or wedged core is lost (R248); `tell` where its report is due at once. -/
def State.loseTask (s : State) (n cause : Nat) (tval : W64) (tell : Bool) : State :=
  match (s.core n).task with
  | none => s
  | some t =>
    let d := t.q.d
    let s := (s.updCore n fun c => { (c.setSpec false).dropHeldL1 with task := none }).endLive t.q.seq
    let s := s.taskBoundary n
    let s := if tell then s.report 0x03 n d.taskid (BitVec.ofNat 64 cause) tval else s
    if !t.q.spec then s
    else if (s.ver d.version).undecided then
      (s.updVer d.version fun x => x.record n cause d.taskid tval).discard d.version 3 true
    else if (s.ver d.version).state = .discarding ∧ (s.runners d.version).isEmpty then
      s.updVer d.version Version.freed
    else s

end Sys2Proof.Machine
end

