-- ==== Sys2Proof/Machine/Collective.lean ====
section
/-! DEFINITION. Collective phases on the device (R357 to R361, R415). -/

namespace Sys2Proof.Machine

/-! ### Values in COL packets -/

/-- A node value as kind (0 finite, 1 finite negative, 2 +∞, 3 −∞, 4 NaN), numerator and exponent of 2. -/
def XVal.parts : XVal → Nat × Nat × Int
  | .fin neg n e => (b1 neg, n, e)
  | .inf neg => (2 + b1 neg, 0, 0)
  | .nan => (4, 0, 0)

def XVal.ofParts (p : Nat × Nat × Int) : XVal :=
  if p.1 = 0 then .fin false p.2.1 p.2.2
  else if p.1 = 1 then .fin true p.2.1 p.2.2
  else if p.1 = 2 then .inf false
  else if p.1 = 3 then .inf true
  else .nan

/-- The model's own encoding of a node value in 64 bytes: kind, exponent in two's complement, numerator. Every node that
R76 forms fits, so its bits survive the fabric (R77). -/
def XVal.record (v : XVal) : List Byte :=
  let p := v.parts
  bytesOf 1 p.1 ++ bytesOf 2 (p.2.2 % 65536).toNat ++ bytesOf 61 p.2.1

/-- The value of such a record. -/
def XVal.ofRecord (b : List Byte) : XVal :=
  .ofParts (ofBytes (b.take 1), ofBytes (b.drop 3), sint 16 (ofBytes ((b.drop 1).take 2)))

/-- The payload of a COL packet under the free mask, and back: an exclusive or either way. -/
def colMasked (fmt : Nat) (bs : List Byte) : List Byte :=
  (bs.zip (List.range bs.length)).map fun p => p.1 ^^^ Config.colMask fmt p.2

/-- The payload that carries some node values. -/
def colBytes (fmt : Nat) (vs : List XVal) : List Byte := colMasked fmt ((vs.map XVal.record).flatten)

/-- The node values that a payload carries. -/
def colValues (fmt : Nat) (bs : List Byte) : List XVal :=
  let b := colMasked fmt bs
  (List.range (b.length / 64)).map fun i => XVal.ofRecord ((b.drop (64 * i)).take 64)

/-- Element formats of collectives (R357). -/
def colFmt (code : Nat) : Option Fmt :=
  if code = 0 then some .f64 else if code = 1 then some .lf48 else if code = 2 then some .f32
  else if code = 3 then some .f16 else if code = 4 then some .bf16 else if code = 0xB then some .i32 else none

/-! ### Descriptor -/

def Phase.fmtOf (p : Phase) : Fmt := (colFmt p.fmt.toNat).getD .f64

/-- The descriptor at an address, none where it is reserved (R357). -/
def State.phaseAt (s : State) (id a : Nat) : Option Phase :=
  let q := fun i => (s.dword (a + 8 * i)).toNat
  let b30 := fld (q 3) 55 48
  let b31 := fld (q 3) 63 56
  let ranks := fld (q 3) 47 32
  let rmapAt := q 2
  let bad := (colFmt (b30 / 16)).isNone || b30 / 4 % 4 != 0 || b30 % 4 == 3 || b31 / 2 != 0 ||
    fld (q 3) 31 0 == 0 || ranks == 0 || fld (q 4) 31 16 == 0 || fld (q 5) 31 16 != 0 || q 7 != 0 ||
    !visible rmapAt (2 * ranks) || s.spanPoisoned rmapAt (2 * ranks)
  if bad then none
  else some
    { id := id, src := q 0, dst := q 1, rmap := (List.range ranks).map fun r => ofBytes (s.bytesAt (rmapAt + 2 * r) 2),
      count := fld (q 3) 31 0, fmt := BitVec.ofNat 4 (b30 / 16), op := BitVec.ofNat 2 (b30 % 4), all := b31 % 2 == 1,
      wsheaf := fld (q 4) 15 0, wcount := fld (q 4) 63 32, ssheaf := fld (q 5) 15 0, sinc := fld (q 5) 63 32,
      stride := q 6, deadline := fld (q 4) 31 16, start := s.tb.epoch, read := false, nodes := [], result := none,
      outbox := [], passed := false }

/-! ### Phases of the device -/

def State.phase (s : State) (id : Nat) : Option Phase := s.pel.phases.find? fun p => p.id = id

def State.setPhase (s : State) (p : Phase) : State :=
  { s with pel := { s.pel with phases := s.pel.phases.map fun q => if q.id = p.id then p else q } }

def State.dropPhase (s : State) (id : Nat) : State :=
  { s with pel := { s.pel with phases := s.pel.phases.filter fun q => q.id != id } }

/-- The device of a rank. -/
def Phase.dev (p : Phase) (r : Nat) : Nat := p.rmap.getD r 0xFFFF

/-- Element `e` of a node that the device knows. -/
def Phase.elem (p : Phase) (l b e : Nat) : Option XVal :=
  p.nodes.findSome? fun n => if n.level = l ∧ n.rank = b ∧ n.first ≤ e then n.vals[e - n.first]? else none

/-- The whole of a node: +0 where no rank lies below RANKS (R359), none while a part is missing. -/
def Phase.whole (p : Phase) (l b : Nat) : Option (List XVal) :=
  if b ≥ p.rmap.length then some (List.replicate p.count posZero)
  else (List.range p.count).mapM fun e => p.elem l b e

/-- The larger or smaller of two values by R74: NaN wins, +0 counts as greater than −0. -/
def XVal.pick (isMax : Bool) (x y : XVal) : XVal :=
  if x.isNan || y.isNan then .nan
  else if x.below y == isMax then y else x

/-- A node from its two children (R359). Padding ranks play no part in a maximum or minimum. -/
def Phase.combine (p : Phase) (right : Nat) (x y : List XVal) : List XVal :=
  if p.op = 0 then
    let nb := nodeBits p.fmtOf (sumAcc p.fmtOf)
    (x.zip y).map fun q => (node nb (q.1, 0) (q.2, 0)).1
  else if right ≥ p.rmap.length then x
  else (x.zip y).map fun q => XVal.pick (p.op == 1) q.1 q.2

/-- AUX of a COL packet (R355). -/
def colAux (id level : Nat) (fail : Bool) : Nat := id + level * 2 ^ 16 + b1 fail * 2 ^ 19

/-- Cut a list into pieces with their first positions. -/
def chunks {α : Type} (k : Nat) : Nat → Nat → List α → List (Nat × List α)
  | 0, _, _ => []
  | _, _, [] => []
  | n + 1, i, l => (i, l.take k) :: chunks k n (i + k) (l.drop k)

/-- The packets of a node's values for a device. -/
def Phase.colPackets (p : Phase) (dst level rank : Nat) (vals : List XVal) : List (Nat × Nat × Nat × List Byte) :=
  let k := 1 + Config.colChunk p.fmt.toNat % 2
  (chunks k vals.length 0 vals).map fun c =>
    (dst, colAux p.id level false, rank * 2 ^ 48 + c.1, colBytes p.fmt.toNat c.2)

/-- Where a node goes: the device that forms its parent, or the accumulator's (R359). -/
def Phase.parentDev (p : Phase) (l b : Nat) : Nat :=
  if l < 5 then p.dev (b / 2 ^ (l + 1) * 2 ^ (l + 1)) else p.dev 0

/-- Enter a node that the device has formed, and send it on where another device needs it. -/
def Phase.addNode (p : Phase) (me l b : Nat) (vals : List XVal) : Phase :=
  let p := { p with nodes := p.nodes ++ [⟨l, b, 0, vals⟩] }
  let d := p.parentDev l b
  if d = me then p else { p with outbox := p.outbox ++ p.colPackets d l b vals }

/-- Form every node of a level that this device forms and whose inputs are here. -/
def Phase.formLevel (p : Phase) (me l : Nat) : Phase :=
  (List.range ((p.rmap.length + 2 ^ l - 1) / 2 ^ l)).foldl (fun p i =>
    let b := i * 2 ^ l
    let r := b + 2 ^ (l - 1)
    if p.dev b ≠ me || (p.nodes.any fun n => n.level == l && n.rank == b) then p
    else match p.whole (l - 1) b, p.whole (l - 1) r with
      | some x, some y => p.addNode me l b (p.combine r x y)
      | _, _ => p) p

/-- The value of an element over its level-5 nodes, as an encoding of FMT (R76, R74). -/
def Phase.finish (p : Phase) (vs : List XVal) : Nat :=
  let f := p.fmtOf
  if p.op = 0 then
    let fa := sumAcc f
    let acc := vs.foldl (fun acc v => (accumulate fa acc (match v with
      | .nan => .nan
      | v => v)).1) 0
    if f = .i32 ∨ f = .f64 ∨ f = .f32 then acc
    else (f.convert (fa.hold.value acc) false .rne false).1
  else
    match vs with
    | [] => 0
    | v :: t => (f.convert (t.foldl (fun x y => XVal.pick (p.op == 1) x y) v) false .rne false).1

/-- Devices to which this device passes the result: those whose nodes it received (R360). -/
def Phase.below (p : Phase) (me : Nat) : List Nat :=
  let l0 := (List.range p.rmap.length).filterMap fun r =>
    if p.parentDev 0 r = me ∧ p.dev r ≠ me then some (p.dev r) else none
  let up := (List.range 5).foldl (fun acc i =>
    let l := i + 1
    acc ++ (List.range ((p.rmap.length + 2 ^ l - 1) / 2 ^ l)).filterMap fun k =>
      let b := k * 2 ^ l
      if p.parentDev l b = me ∧ p.dev b ≠ me then some (p.dev b) else none) []
  (l0 ++ up).eraseDups

/-- Form what can be formed: levels 1 to 5 in order, then the result on the device of rank 0. -/
def Phase.advance (p : Phase) (me : Nat) : Phase :=
  let p := (List.range 5).foldl (fun p i => p.formLevel me (i + 1)) p
  let p : Phase :=
    if p.dev 0 ≠ me || p.result.isSome then p
    else
      let blocks := (p.rmap.length + 31) / 32
      match (List.range blocks).mapM fun j => p.whole 5 (32 * j) with
      | none => p
      | some ns =>
        let f := p.fmtOf
        { p with result := some ((List.range p.count).map fun e =>
            f.value (p.finish (ns.map fun n => n.getD e posZero))) }
  match p.result with
  | none => p
  | some r =>
    if p.passed || !p.all then p
    else
      { p with passed := true, outbox := p.outbox ++ (p.below me).foldl (fun acc d => acc ++ p.colPackets d 6 0 r) [] }

/-! ### Failure (R361) -/

/-- The node of lowest rank that the device could not complete: level and rank. -/
def Phase.missing (p : Phase) (me : Nat) : Nat × Nat :=
  let cand := (List.range 6).foldl (fun acc l =>
    acc ++ (List.range ((p.rmap.length + 2 ^ l - 1) / 2 ^ l)).filterMap fun k =>
      let b := k * 2 ^ l
      if p.dev b = me ∧ (p.whole l b).isNone then some (l, b) else none) []
  cand.foldl (fun m c => if c.2 < m.2 then c else m) (cand.headD (5, 0))

/-- What a failure records and reports. -/
def State.colFailed (s : State) (id rank : Nat) : State :=
  let a := wPEL + 0x40
  let c := min 0xFFFF (s.regF a 15 0 + 1)
  let s := s.setReg a (BitVec.ofNat 64 (2 ^ 63 + id % 65536 * 2 ^ 32 + rank % 65536 * 2 ^ 16 + c))
  s.report 0x07 noUnit (BitVec.ofNat 32 id) (BitVec.ofNat 64 (rank % 65536)) 0

/-- Send a COL packet under a tracker: false where it cannot be sent, unchanged where none is free. -/
def State.sendCol (s : State) (id : Nat) (m : Nat × Nat × Nat × List Byte) : Option State × Bool :=
  if !s.pelEn || s.fault.fatal || (s.route s.devnum m.1).isNone then (none, false)
  else (s.request m.1 (fun t => s.packet 7 m.1 t 0 m.2.1 m.2.2.1 m.2.2.2.length 0 0 m.2.2.2)
    (.collective id (m.2.2.1 / 2 ^ 48)) [] none, true)

/-- The node above a node that another device forms, through those that this device forms itself: its level, its
rank and the device; none where only the accumulator of this device is above. -/
def Phase.upNode (p : Phase) (me : Nat) : Nat → Nat → Nat → Option (Nat × Nat × Nat)
  | 0, _, _ => none
  | k + 1, l, b =>
    let d := p.parentDev l b
    if d ≠ me then some (l, b, d)
    else if l < 5 then p.upNode me k (l + 1) (b / 2 ^ (l + 1) * 2 ^ (l + 1))
    else none

/-- A phase stops as failed. The device that forms the parent hears FAIL, at the level of the node that does not come;
from the device of rank 0, and from above (`down`), FAIL goes down the tree in place of the result, at level 6. -/
def State.failPhase (s : State) (id : Nat) (node : Option (Nat × Nat)) (down : Bool) : State :=
  match s.phase id with
  | none => s
  | some p =>
    let me := s.devnum
    let m := node.getD (p.missing me)
    let hear : List (Nat × Nat × Nat) :=
      if down || p.dev 0 = me then (p.below me).map fun d => (d, 6, m.2)
      else match p.upNode me 6 (min m.1 5) m.2 with
        | some u => [(u.2.2, u.1, u.2.1)]
        | none => []
    let s := s.dropPhase id
    -- Each waits for a tracker where none is free (R336); one that cannot be sent is lost.
    let s := hear.foldl (fun (s : State) (d : Nat × Nat × Nat) =>
      let x := (d.1, colAux id d.2.1 true, d.2.2 * 2 ^ 48, ([] : List Byte))
      match s.sendCol id x with
        | (some s, _) => s
        | (none, true) => { s with pel := { s.pel with colOut := s.pel.colOut ++ [(id, x)] } }
        | (none, false) => s) s
    s.colFailed id m.2

/-- Send waiting COL packets of one phase while trackers are free. -/
def State.flushPhase (id : Nat) : Nat → State → State
  | 0, s => s
  | n + 1, s =>
    match s.phase id with
    | none => s
    | some p =>
      match p.outbox with
      | [] => s
      | m :: t =>
        match s.sendCol id m with
        | (some s', _) => State.flushPhase id n (s'.setPhase { p with outbox := t })
        | (none, true) => s
        | (none, false) => s.failPhase id (some (fld m.2.1 18 16, m.2.2.1 / 2 ^ 48)) false

/-- FAIL packets of stopped phases leave while trackers are free. -/
def State.flushFails (s : State) : State :=
  s.pel.colOut.foldl (fun (s : State) x => match s.sendCol x.1 x.2 with
    | (some s, _) => s
    | (none, true) => { s with pel := { s.pel with colOut := s.pel.colOut ++ [x] } }
    | (none, false) => s) { s with pel := { s.pel with colOut := [] } }

/-- Send what waits, for every phase. -/
def State.flushCols (s : State) : State :=
  s.pel.phases.foldl (fun s p => State.flushPhase p.id (p.outbox.length + 1) s) s.flushFails

/-- A phase goes on: nodes are formed and packets leave. -/
def State.stepPhase (s : State) (id : Nat) : State :=
  match s.phase id with
  | none => s
  | some p =>
    let p := p.advance s.devnum
    State.flushPhase id (p.outbox.length + 1) (s.setPhase p)

/-- The COLLECTIVE action of a slot (R357, R358, R415). -/
def State.startPhase (s : State) (id : Nat) : State :=
  let base := s.regF (wPEL + 0x38) 46 6 * 64
  let a := base + 64 * id
  if s.regF (wPEL + 0x38) 59 48 < id then
    (s.colFailed id (W64.fld (Config.freeValue s.free) 15 0)).draw
  else if !visible a 64 || s.spanPoisoned a 64 then
    (s.colFailed id (W64.fld (Config.freeValue s.free) 15 0)).draw
  else match s.phaseAt id a with
    | none => (s.colFailed id (W64.fld (Config.freeValue s.free) 15 0)).draw
    | some p =>
      if !p.rmap.contains s.devnum || (s.phase id).isSome then s
      else { s with pel := { s.pel with phases := s.pel.phases ++ [p] } }

/-- The ranks that this device holds, with their numbers q (R358). -/
def Phase.own (p : Phase) (me : Nat) : List (Nat × Nat) :=
  let rs := (List.range p.rmap.length).filter fun r => p.dev r == me
  rs.zip (List.range rs.length)

/-- Bytes of an element in memory. -/
def Fmt.bytes (f : Fmt) : Nat := f.width / 8

/-- The contributions are read as committed data (R358); a poisoned one fails the phase (R415). -/
def State.readPhase (s : State) (id : Nat) : State :=
  match s.phase id with
  | none => s
  | some p =>
    let ready := decide (p.wsheaf ≥ Config.sheaves) || decide (p.wcount ≤ (s.sheaf p.wsheaf).toNat)
    if p.read || !ready then s
    else
      let f := p.fmtOf
      let at_ := fun (q : Nat) => (p.src + p.stride * q) % 2 ^ 64
      let n := p.count * f.bytes
      match (p.own s.devnum).find? fun o => !visible (at_ o.2) n || s.spanPoisoned (at_ o.2) n with
      | some o => s.failPhase id (some (0, o.1)) false
      | none =>
        let p := (p.own s.devnum).foldl (fun (p : Phase) o =>
          let vals := (List.range p.count).map fun e => f.value (ofBytes (s.bytesAt (at_ o.2 + e * f.bytes) f.bytes))
          p.addNode s.devnum 0 o.1 vals) { p with read := true }
        (s.setPhase p).stepPhase id

/-- A COL packet brings node values or a failure (R355, R359 to R361). -/
def State.colArrives (s : State) (pk : Packet) : State :=
  let id := fld pk.aux.toNat 15 0
  let lvl := fld pk.aux.toNat 18 16
  match s.phase id with
  | none => s
  | some p =>
    if pk.aux.toNat.testBit 19 then
      -- The node that this device cannot complete: the parent of the one that does not come, or the result.
      let b := fld pk.addr.toNat 63 48
      let up := if lvl < 5 then (lvl + 1, b / 2 ^ (lvl + 1) * 2 ^ (lvl + 1)) else (6, 0)
      s.failPhase id (some up) (lvl == 6)
    else
      let vals := colValues p.fmt.toNat pk.payload
      let first := fld pk.addr.toNat 31 0
      let p := { p with nodes := p.nodes ++ [⟨lvl, fld pk.addr.toNat 63 48, first, vals⟩] }
      let p : Phase :=
        if lvl = 6 ∧ p.result.isNone then
          match (List.range p.count).mapM fun e => p.elem 6 0 e with
          | some r => { p with result := some r }
          | none => p
        else p
      (s.setPhase p).stepPhase id

/-- Whether the device has done its part of a phase (R360). -/
def Phase.done (p : Phase) (me : Nat) : Bool :=
  p.read && p.outbox.isEmpty &&
    (if p.all || p.dev 0 == me then p.result.isSome
     else (List.range 6).all fun l => (List.range ((p.rmap.length + 2 ^ l - 1) / 2 ^ l)).all fun k =>
       p.dev (k * 2 ^ l) != me || (p.whole l (k * 2 ^ l)).isSome)

/-- The writes to DST are performed and SSHEAF is signalled (R360). -/
def State.completePhase (s : State) (id : Nat) : State :=
  match s.phase id with
  | none => s
  | some p =>
    let waiting := s.pel.trackers.any fun t => match t.2 with
      | some t => match t.origin with
        | .collective i _ => i == id
        | _ => false
      | none => false
    if !p.done s.devnum || waiting then s
    else
      let f := p.fmtOf
      let s := if p.all || p.dev 0 = s.devnum then
          match p.result with
          | some r =>
            let bs := r.foldl (fun acc v => acc ++ bytesOf f.bytes (f.convert v false .rne false).1) []
            if visible p.dst bs.length then s.commitSpan p.dst bs false else s
          | none => s
        else s
      (s.dropPhase id).signalSheaf p.ssheaf p.sinc

/-- The phase has not completed within its epochs (R361). -/
def State.phaseLate (s : State) (id : Nat) : State :=
  match s.phase id with
  | none => s
  | some p =>
    if (s.tb.epoch - p.start).toNat < p.deadline then s else s.failPhase id none false

end Sys2Proof.Machine
end

