-- ==== Sys2Proof/Machine/Copy.lean ====
section
/-! DEFINITION. Copies, fills and checkpoints of the control die (R394 to R396, R411, R415). -/

namespace Sys2Proof.Machine

/-- Where a destination lies: local at this address, or away. A refused global address is away too, and
its stores are refused one by one (R332). -/
inductive CopyDst where
  | here (pa : Nat)
  | away
deriving DecidableEq, Repr

def State.copyDst (s : State) (d : W64) : CopyDst :=
  if isGlobal d.toNat then
    match s.served d.toNat with
    | .here pa => .here pa
    | _ => .away
  else .here d.toNat

/-- Whether a range breaks R395: source and local destination in visible memory, no overlap. -/
def State.copyBad (s : State) (src : Nat) (dst : W64) (len : Nat) : Bool :=
  !visible src len ||
    match s.copyDst dst with
    | .here d => !visible d len || (decide (src < d + len) && decide (d < src + len) && len != 0)
    | .away => false

/-- A fill's destination (R394): local, aligned, in visible memory. -/
def fillBad (dst len : Nat) : Bool := !visible dst len || dst % 8 != 0 || len % 8 != 0

/-- Pieces of a copy that lie within one source and one destination sector: offset and length. -/
def copyPieces (src dst : Nat) : Nat → Nat → Nat → List (Nat × Nat)
  | 0, _, _ => []
  | n + 1, off, len =>
    if len = 0 then []
    else
      let k := min len (min (32 - (src + off) % 32) (32 - (dst + off) % 32))
      (off, k) :: copyPieces src dst n (off + k) (len - k)

/-- The bytes of a piece: of the source, or of the pattern of a fill. -/
def State.copyBytes (s : State) (j : CopyJob) (off n : Nat) : List Byte :=
  match j.pattern with
  | none => s.bytesAt (j.src + off) n
  | some p => (List.range n).map fun i => byteAt p ((off + i) % 8)

/-- Whether a piece comes from a poisoned sector. -/
def State.copyPoison (s : State) (j : CopyJob) (off : Nat) : Bool :=
  j.pattern.isNone && s.poisoned ((j.src + off) / 32)

def State.setCopy (s : State) (j : CopyJob) : State :=
  { s with ctl := { s.ctl with copies := s.ctl.copies.map fun c => if c.id = j.id then j else c } }

def State.copyJob (s : State) (id : Nat) : Option CopyJob := s.ctl.copies.find? fun c => c.id = id

/-- A remote store that found no tracker waits at the control die (R336). -/
def State.sendOrWait (s : State) (o : Origin) (e : SbEntry) (estamp : BitVec 48) : State :=
  match s.sendStore o e estamp with
  | (s, true) => s
  | (s, false) => { s with pel := { s.pel with rwait := s.pel.rwait ++ [⟨o, [], e, false⟩] } }

/-- The remote stores of a copy to a global address (R395, R415): each good sector is sent, each poisoned
one skipped, recorded and reported. -/
def State.copyAway (s : State) (j : CopyJob) : State :=
  (copyPieces j.src j.dst.toNat (j.len + 1) 0 j.len).foldl (fun (s : State) (p : Nat × Nat) =>
    let a := j.dst.toNat + p.1
    let sec : W64 := BitVec.ofNat 64 (a / 32 * 32)
    if s.copyPoison j p.1 then
      -- One entry for each poisoned sector, at its first piece (R415).
      let s := if p.1 ≠ 0 ∧ (j.src + p.1) % 32 ≠ 0 then s else s.history 0x0B 0 noUnit sec (BitVec.ofNat 32 j.index)
      match s.copyJob j.id with
      | some c => s.setCopy { c with bad := true }
      | none => s
    else
      let m := spanSector a (s.copyBytes j p.1 p.2)
      let s := match s.copyJob j.id with
        | some c => s.setCopy { c with moved := c.moved + p.2 }
        | none => s
      s.sendOrWait (.copy j.id)
        { addr := sec, mask := m.1, data := m.2, poison := false, dead := false, pl := 3, ver := none, hint := 0,
          keep := 0, part := 0, count := 1 }
        s.tb.epoch) s

/-- Local stores of a copy or fill, poisoned sectors as poisoned (R411). -/
def State.copyHere (s : State) (j : CopyJob) (dst : Nat) : State :=
  (copyPieces j.src dst (j.len + 1) 0 j.len).foldl (fun (s : State) (p : Nat × Nat) =>
    let m := spanSector (dst + p.1) (s.copyBytes j p.1 p.2)
    (s.commitSector none ((dst + p.1) / 32) m.1 m.2 (s.copyPoison j p.1) true 0).1) s

/-- A copy starts: a remote one sends its stores; a local one is performed by the time it completes. -/
def State.startCopy (s : State) (src : Nat) (dst : W64) (len : Nat) (pattern : Option W64) (ssheaf sinc : Nat)
    (ckpt : Option Nat) (index : Nat) : State :=
  let j : CopyJob :=
    { id := s.ctl.nextCopy, src := src, dst := dst, len := len, pattern := pattern, ssheaf := ssheaf, sinc := sinc,
      ckpt := ckpt, bad := false, moved := 0, index := index }
  let s := { s with ctl := { s.ctl with copies := s.ctl.copies ++ [j], nextCopy := s.ctl.nextCopy + 1 } }
  match s.copyDst dst with
  | .here _ => s
  | .away => s.copyAway j

/-- Whether remote stores of a copy are still to be sent or answered. -/
def State.copyOut (s : State) (id : Nat) : Bool :=
  (s.pel.trackers.any fun t => match t.2 with
    | some t => (t.origin :: t.also).contains (.copy id)
    | none => false) || s.pel.rwait.any fun w => (w.origin :: w.also).contains (.copy id)

/-- A copy completes (R395): its stores are performed or answered, and SINC is added to SSHEAF unless a
sector was skipped (R415) or a store never answered (R350). A CHECKPOINT report follows for a checkpoint (R396). -/
def State.finishCopy (s : State) (id : Nat) : State :=
  match s.copyJob id with
  | none => s
  | some j =>
    if s.copyOut id then s
    else
      let s := match s.copyDst j.dst with
        | .here d => (s.copyHere j d).setCopy { j with moved := j.len }
        | .away => s
      let j := (s.copyJob id).getD j
      let s := { s with ctl := { s.ctl with copies := s.ctl.copies.filter fun c => c.id != id } }
      let s := if j.bad then s else s.signalSheaf j.ssheaf j.sinc
      match j.ckpt with
      | none => s
      | some i =>
        let s := { s with ctl := { s.ctl with ckpts := s.ctl.ckpts.filter fun c => c.copy != some id } }
        s.report 0x0B noUnit (BitVec.ofNat 32 i) (BitVec.ofNat 64 (b1 j.bad)) (BitVec.ofNat 64 j.moved)

/-- The CHECKPOINT action (R327, R396): the entry is read; a bad one fails and is reported. -/
def State.beginCheckpoint (s : State) (i : Nat) : State :=
  let a := s.regF (wMBX + 0x30) 46 5 * 32 + 32 * i
  let fails := s.report 0x0B noUnit (BitVec.ofNat 32 i) 1 0
  if s.regF (wMBX + 0x30) 59 48 < i || !visible a 32 || s.spanPoisoned a 32 then fails
  else
    let q := (s.dword (a + 24)).toNat
    let c : Ckpt :=
      { idx := i, src := (s.dword a).toNat, dst := s.dword (a + 8), len := (s.dword (a + 16)).toNat,
        wsheaf := fld q 15 0, ssheaf := fld q 31 16, wcount := fld q 63 32, copy := none }
    if s.copyBad c.src c.dst c.len then fails
    else { s with ctl := { s.ctl with ckpts := s.ctl.ckpts ++ [c] } }

/-- A checkpoint's sheaf has reached WCOUNT (R396). -/
def State.ckptReady (s : State) (c : Ckpt) : Bool := !(decide (c.wsheaf < Config.sheaves) && decide ((s.sheaf c.wsheaf).toNat < c.wcount))

/-- The oldest checkpoint of an entry that waits, and is ready, begins its copy. -/
def beginCkpt (ready : Ckpt → Bool) (i id : Nat) : List Ckpt → List Ckpt
  | [] => []
  | c :: t => if c.idx = i ∧ c.copy = none ∧ ready c then { c with copy := some id } :: t else c :: beginCkpt ready i id t

/-- Firmware copies a checkpoint once its sheaf has reached WCOUNT (R396). -/
def State.copyCheckpoint (s : State) (i : Nat) : State :=
  match s.ctl.ckpts.find? fun c => c.idx = i ∧ c.copy = none ∧ s.ckptReady c with
  | none => s
  | some c =>
      let s := { s with ctl := { s.ctl with ckpts := beginCkpt s.ckptReady i s.ctl.nextCopy s.ctl.ckpts } }
      s.startCopy c.src c.dst c.len none c.ssheaf 1 (some i) i

/-- The oldest copy for a checkpoint's entry of which nothing is out is complete. -/
def State.completeCheckpoint (s : State) (i : Nat) : State :=
  match s.ctl.copies.find? fun c => c.ckpt = some i ∧ !s.copyOut c.id with
  | none => s
  | some j => s.finishCopy j.id

end Sys2Proof.Machine
end

