-- ==== Sys2Proof/Machine/Cycles.lean ====
section
/-! DEFINITION. The clocks of the clusters (R492, R499), and what counts cycles and ticks (R503, R506, R507, R509,
R510) while ticks pass. A command takes no time in this model: cycles pass with the ticks alone (log entry 8). -/

namespace Sys2Proof.Machine

/-! ### Cluster clocks (R492, R499) -/

/-- The level to which a zone step caps its clusters (R304, R492). -/
def zoneCap (z : Nat) : Nat := if z = 1 then 24 else if z = 2 then 12 else if z = 3 then 6 else 36

/-- The two stacks whose zones a cluster lies in (R32, R306). -/
def zoneStacks (cl : Nat) : Nat × Nat :=
  let c := cl % 12
  let a := 16 * (cl / 12) + 4 * (c / 4) + c % 4
  (a, a + 4)

/-- The level in effect on a cluster, and what sets it: 0 LEVEL, 1 the junction cap, 2 a stack zone (R499). -/
def State.clock (s : State) (cl : Nat) : Nat × Nat :=
  let cap := Tab.get 36 s.pwr.caps cl
  let z := zoneStacks cl
  let zc := min (zoneCap (s.stack z.1).zone) (zoneCap (s.stack z.2).zone)
  let m := min s.pwr.level (min cap zc)
  (m, if m = s.pwr.level then 0 else if m = cap then 1 else 2)

/-- MBX_CLKn (R499). -/
def State.clockWord (s : State) (n : Nat) : W64 :=
  BitVec.ofNat 64 ((List.range 8).foldl (fun v k =>
    let c := s.clock (8 * n + k)
    v + (c.2 * 64 + c.1 % 64) * 2 ^ (8 * k)) 0)

/-! ### Cycles of a core (R503, R506, R507) -/

/-- A number of cycles divided into as many shares as there are values, and one more. -/
def shares : List Nat → Nat → List Nat
  | [], n => [n]
  | u :: t, n => u % (n + 1) :: shares t (n - u % (n + 1))

/-- How `cyc` cycles of a core are charged to a code from 0x10 to 0x1E (R506). What holds up a core that waits for
nothing, and whether a full store buffer or a fence does, is not held in the state: `u` divides them. -/
def Core.charged (c : Core) (code cyc : Nat) (u : Nat → Nat) : Nat :=
  let all := fun (k : Nat) => if code = k then cyc else 0
  match c.wait with
  | .none => (shares ((List.range 14).map u) cyc).getD (code - 0x10) 0
  | .tiles => all 0x15
  | .stores => if code = 0x18 ∨ code = 0x19 then (shares [u 0] cyc).getD (code - 0x18) 0 else 0
  | .fenceE _ => all 0x19
  | .take _ => all 0x1B
  | .tdone _ => all (if c.tops.isEmpty then 0x1E else 0x15)
  | .verdict => all 0x1A
  | .setWay => all 0x1A
  | .remote => all 0x14
  | .delivery => all 0x1D
  | .miss => all 0x13
  | .push _ => all 0x1A

/-- Events that count cycles of a core or of its engines (R506, R507). -/
def cycleEvent (ev : Nat) : Bool :=
  (decide (0x10 ≤ ev) && decide (ev ≤ 0x1E)) || (decide (0x30 ≤ ev) && decide (ev ≤ 0x35)) || ev == 0x37 || ev == 0x43 ||
    ev == 0x44

def engineEvent (ev : Nat) : Bool := decide (0x30 ≤ ev) && decide (ev ≤ 0x3B)

/-- Cycles of an engine event while `cyc` pass: of a run, the parts in arithmetic, copies, write-back and checks are
not stated tick by tick, and `u` decides. -/
def Engine.cycles (e : Engine) (owner ev cyc u : Nat) : Nat :=
  let away := fun (r : Option EngRun) => match r with
    | some r => r.core != owner
    | none => false
  let idle := e.run0.isNone && e.run1.isNone
  if ev = 0x33 then if idle then cyc else 0
  else if ev = 0x34 then if away e.run0 || away e.run1 then cyc else 0
  else if ev = 0x35 then if e.run0.isSome && e.run1.isSome then cyc else 0
  else if idle then 0 else u % (cyc + 1)

/-- `cyc` cycles pass on a core that counts: PERF_CYC, and each counter that counts cycles. -/
def Core.passCycles (c : Core) (n cyc : Nat) (eng : Nat → Engine) (u : Nat → Nat) : Core :=
  let lvl := fun (k : Nat) => ((c.cr (0x508 + k)).toNat >>> 20).testBit (lvlBit c.pl)
  let c0 := if lvl 0 then c.setCr 0x520 (c.cr 0x520 + BitVec.ofNat 64 cyc) else c
  (List.range 8).foldl (fun (d : Core) k =>
    let sel := (c.cr (0x508 + k)).toNat
    let ev := sel % 256
    if !cycleEvent ev || !(engineEvent ev || lvl k) then d
    else d.bumpCnt k (if engineEvent ev then (eng ((sel >>> 16) % 8)).cycles n ev cyc (u k)
      else if ev = 0x43 ∨ ev = 0x44 then u k % (cyc + 1)
      else c.charged ev cyc fun i => u (8 + i))) c0

/-! ### Ticks of the device (R509, R510) -/

/-- What a device event that no command counts adds while `k` ticks pass. A flit waits for credit where a
port that is UP has packet stream and no room. When refreshes run, but for windowed mode outside a window, and the symbols
and codewords that FEC meets are not held in the state: `u` decides. None for other events. -/
def State.tickEvent (s : State) (ev unit k u : Nat) : Option Nat :=
  let when := fun (ok p : Bool) => if ok then some (if p then k else 0) else none
  if ev = 0xF0 then when (unit == 0) true
  else if ev = 0xF1 then when (unit == 0) s.pwr.hold
  else if ev = 0xC8 then when (unit == 0) s.freeTags.isEmpty
  else if ev = 0xC9 then when (unit == 0) (!s.pel.phases.isEmpty)
  else if ev = 0xE2 then when (decide (unit < Config.versions)) (decide (footLimit ≤ (s.ver unit).foot) || s.setStalled unit)
  else if ev = 0xA2 then
    if unit < Config.dramStacks then some (if s.tb.refMode && !s.tb.fallback && s.tb.window.isNone then 0 else u % (k + 1))
    else none
  else if ev = 0xC5 then
    let p := s.port unit
    when (decide (unit < Config.ports)) (p.state == .up && !p.stream.isEmpty && p.room == 0)
  else if ev = 0xC3 ∨ ev = 0xC4 then if unit < Config.ports then some u else none
  else none

/-- The device counters while `k` ticks pass, where they run. -/
def State.countTicks (s : State) (k : Nat) (u : Nat → Nat) : State :=
  if !(s.reg wPERF).toNat.testBit 0 then s
  else (List.range 32).foldl (fun (t : State) n =>
    let sel := (s.reg (wPERF + 0x100 + 8 * n)).toNat
    match s.tickEvent (sel % 256) ((sel >>> 16) % 256) k (u n) with
    | some x => t.setReg (wPERF + 0x200 + 8 * n) (t.reg (wPERF + 0x200 + 8 * n) + BitVec.ofNat 64 x)
    | none => t) s

/-- `k` ticks pass: each cluster at level L runs k × L / 4 cycles (R316, R492); how its clock lies to the ticks is not
stated. -/
def State.countTime (s : State) (k : Nat) : State :=
  if k = 0 then s
  else
    let u := fun (i : Nat) => (Config.freeValue (s.free + i)).toNat
    let cycles := fun (cl : Nat) => (k * (s.clock cl).1 + u (32 * cl) % 4) / 4
    let run := (List.range Config.clusters).foldl (fun m cl => Tab.set 0 m cl (Tab.get 0 m cl + cycles cl)) s.pwr.cycles
    let s : State := { s with pwr := { s.pwr with cycles := run } }
    let t := allCores.foldl (fun (t : State) n =>
      let c := s.core n
      if !c.counts then t
      else
        let cyc := cycles (coreCluster n)
        t.setCore n (c.passCycles n cyc (fun m => s.eng (8 * n + m)) fun i => u (32 * n + 1 + i))) s
    { t.countTicks k fun n => u (3072 + n) with free := s.free + 4096 }

end Sys2Proof.Machine
end

