-- ==== Sys2Proof/Machine/Timebase.lean ====
section
/-! DEFINITION. The external timebase: the passing of ticks, boundaries, holdover and event slots (R315 to
R331), and what acts at a boundary: refresh, zones, the governor, fence.e, step slots, snapshots. -/

namespace Sys2Proof.Machine

/-! ### Governor and stacks at a boundary -/

/-- LEVEL and the junction caps take their pending values (R495). -/
def State.applyGovernor (s : State) : State :=
  if !s.pwr.everRun then s
  else { s with pwr := { s.pwr with level := s.pwr.pendingLevel, pe := [], caps := s.pwr.capsNext, hold := false } }

/-- Falls of the refresh level and zone steps take effect (R305); REF_MODE as written (R302). -/
def State.applyStacks (s : State) : State :=
  let s := (List.range Config.dramStacks).foldl (fun (s : State) n =>
    let x := s.stack n
    s.setStack n { x with refx := x.refxNext, zone := x.zoneNext }) s
  { s with tb := { s.tb with refMode := (s.reg wMEM).toNat.testBit 0 } }

/-! ### Outstanding stores and fence.e -/

/-- Whether a core has a store that is neither at its destination nor logged (R114). -/
def State.storesOut (s : State) (n : Nat) : Bool :=
  let c := s.core n
  let mine := fun (o : Origin) => match o with
    | .store m _ => m == n
    | .packed m _ => m == n
    | .push m => m == n
    | .version _ m _ _ => m == n
    | _ => false
  (s.versions.any fun v => v.2.committing && v.2.remote.any fun r => r.core == n) ||
  !c.sb.isEmpty || !c.heldSt.isEmpty ||
    (s.pel.trackers.any fun t => match t.2 with
      | some t => (t.origin :: t.also).any mine
      | none => false) || s.pel.rwait.any fun w => (w.origin :: w.also).any mine

/-- CORE_PROGRESS without VALID. -/
def Core.clearProgress (c : Core) : Core := c.setCr nPROGRESS (W64.setFld (c.cr nPROGRESS) 63 63 0)

/-- A waiting fence.e completes (R90): the pc moves past it. -/
def Core.endFence (c : Core) : Core :=
  match c.wait with
  | .fenceE _ =>
    let c := c.clearProgress
    ({ c with wait := .none, arch := { c.arch with pc := c.arch.pc + 4 } } : Core).countInst
  | _ => c

/-- The fence.e instructions that are waiting complete where every older store is complete (R324). -/
def State.endFences (s : State) : State :=
  s.cores.foldl (fun s p => if s.storesOut p.1 then s else s.updCore p.1 Core.endFence) s

/-! ### Slots -/

def slotAt (n : Nat) : Nat := wTB + 0x1000 + 32 * n
def State.slotEpoch (s : State) (n : Nat) : Nat := s.regF (slotAt n) 47 0
def State.slotRepeat (s : State) (n : Nat) : Nat := s.regF (slotAt n) 63 48
def State.slotArmed (s : State) (n : Nat) : Bool := (s.reg (slotAt n + 8)).toNat.testBit 63
def State.slotAction (s : State) (n : Nat) : Nat := s.regF (slotAt n + 8) 25 22
def State.slotTick (s : State) (n : Nat) : Nat := s.regF (slotAt n + 8) 21 0
def State.slotArg (s : State) (n : Nat) : W64 := s.reg (slotAt n + 16)

/-- The change of a slot that fires or is skipped `k` times (R326, R328). -/
def State.moveSlot (s : State) (n k : Nat) : State :=
  if s.slotRepeat n = 0 then s.setReg (slotAt n + 8) (W64.setFld (s.reg (slotAt n + 8)) 63 63 0)
  else s.setReg (slotAt n) (W64.setFld (s.reg (slotAt n)) 47 0 ((s.slotEpoch n + k * s.slotRepeat n) % 2 ^ 48))

/-- A slot is skipped (R328): SKIP, LATE, and the slot moves on. -/
def State.skipSlot (s : State) (n k : Nat) : State :=
  ((s.moveSlot n k).bump (wTB + 0x28) 15 0 k).orReg (wTB + 0x08) (BitVec.ofNat 64 (2 ^ 59))

/-- Slots fire in tracking and holdover (R326), not before the boundary of R320. -/
def State.slotsFire (s : State) : Bool :=
  (s.tb.mode == .tracking || s.tb.mode == .holdover) && !s.tb.slotsHeld

/-- Whether an armed slot's position lies ahead: at or past the tick count, past it where `strict`. -/
def State.slotAhead (s : State) (n tc : Nat) (strict : Bool) : Bool :=
  let t := s.slotTick n
  decide (t < s.tb.period) && (decide (tc < t) || (t == tc && !strict))

/-- Skip every occurrence of an armed slot that has passed at a tick count (R328). -/
def State.sweepSlot (s : State) (n tc : Nat) (strict : Bool) : State :=
  if !s.slotArmed n then s
  else
    let e := s.slotEpoch n
    let cur := s.tb.epoch.toNat
    let ahead := s.slotAhead n tc strict
    if cur < e ∨ (e = cur ∧ ahead) then s
    else if s.slotRepeat n = 0 then s.skipSlot n 1
    else
      let k := (cur - e + s.slotRepeat n - 1) / s.slotRepeat n
      s.skipSlot n (if e + k * s.slotRepeat n = cur ∧ !ahead then k + 1 else k)

/-- Skip every armed occurrence that has passed at a tick count. -/
def State.sweepSlots (s : State) (tc : Nat) (strict : Bool) : State :=
  (List.range Config.eventSlots).foldl (fun s n => s.sweepSlot n tc strict) s

/-! ### Snapshots and step slots -/

/-- Slots of a slice that hold a compressed pair. -/
def State.pairsOf (s : State) (cl : Nat) : Nat :=
  let mine := (s.mem.llc.filter fun p => s.home p.1 == cl).map fun p => slotKey cl (s.setIdx p.1) p.2.way
  mine.length - mine.eraseDups.length

/-- Held lines in a slice. -/
def State.heldOf (s : State) (cl : Nat) : Nat :=
  s.versions.foldl (fun n v => n + (v.2.lines.filter fun p => s.home p.1 == cl).length) 0

/-- A device counter as it reads; a gauge reads the present level (R509). -/
def State.dcount (s : State) (n : Nat) : W64 :=
  let sel := (s.reg (wPERF + 0x100 + 8 * n)).toNat
  let unit := fld sel 23 16
  if sel % 256 = 0x83 then BitVec.ofNat 64 (if unit < Config.clusters then s.pairsOf unit else 0)
  else if sel % 256 = 0x85 then BitVec.ofNat 64 (if unit < Config.clusters then s.heldOf unit else 0)
  else s.reg (wPERF + 0x200 + 8 * n)

/-- Every counter is copied to its snapshot register (R511). -/
def State.snapshot (s : State) : State :=
  let s := s.mapCores fun _ c =>
    let c := (c.setCr 0x530 (c.cr 0x520)).setCr 0x531 (c.cr 0x521)
    (List.range 8).foldl (fun c i => c.setCr (0x532 + i) (c.cr (0x510 + i))) c
  let s := (List.range 32).foldl (fun s n => s.setReg (wPERF + 0x300 + 8 * n) (s.dcount n)) s
  let seq := (s.regF (wPERF + 8) 63 48 + 1) % 65536
  let s := s.setReg (wPERF + 8) (BitVec.ofNat 64 (seq * 2 ^ 48 + s.tb.epoch.toNat))
  s.setReg (wPERF + 0x10) (BitVec.ofNat 64 (s.tb.tick % 2 ^ 22))

/-- A step slot latches (R363, R364). -/
def State.latchStep (s : State) (n : Nat) : State :=
  if n ≥ Config.stepSlots then s
  else
    let x := s.stepSlot n
    let seq := (W64.fld x.cur 62 48 + 1) % 2 ^ 15
    let cur := match x.pending with
      | some v => 2 ^ 48 * seq + (narrowLf48 v.toNat).1
      | none => 2 ^ 63 + 2 ^ 48 * seq + W64.fld x.cur 47 0
    s.setStepSlot n ⟨none, BitVec.ofNat 64 cur, x.cur⟩

/-! ### Firing -/

/-- ARG bits that an action allows; none for a reserved action (R327). -/
def slotArgBits (action : Nat) : Option W64 :=
  if action = 1 then some 0x3FFFFF
  else if action = 2 then some 0
  else if action = 3 then some 0xFF
  else if action = 4 then some 0xFFFF
  else if action = 5 then some 0
  else if action = 6 then some 0xFFFF
  else if action = 7 then some 0xFFFFFFF
  else none

/-- Cause 0x20 becomes pending on the cores that both masks select (R327, R330). -/
def State.pendEpoch (s : State) (n : Nat) (arg : Nat) : State :=
  allCores.foldl (fun s i =>
    if (arg >>> 4).testBit (coreCluster i) && arg.testBit (coreCic i) then
      s.updCore i fun c => { c with pend := { c.pend with
        epoch := true, epochMask := c.pend.epochMask ||| BitVec.ofNat 64 (2 ^ n) } }
    else s) s

/-- A refresh window of some length opens; one that is open already goes on to the later end (R302). -/
def State.openWindow (s : State) (len : Nat) : State :=
  let e := s.tb.now + len
  let (a, b) := match s.tb.window with
    | some (a, b) => if s.tb.now < b then (a, max b e) else (s.tb.now, e)
    | none => (s.tb.now, e)
  { s with tb := { s.tb with window := some (a, b) } }

/-- The action of a slot (R327). -/
def State.actSlot (s : State) (n action : Nat) (arg : W64) : State :=
  if action = 1 then s.openWindow (arg.toNat % 2 ^ 22)
  else if action = 2 then s.applyGovernor
  else if action = 3 then s.latchStep (arg.toNat % 256)
  else if action = 4 then s.startPhase (arg.toNat % 65536)
  else if action = 5 then s.snapshot
  else if action = 6 then s.beginCheckpoint (arg.toNat % 65536)
  else if action = 7 then s.pendEpoch n arg.toNat
  else s

/-- A slot fires (R326). -/
def State.fireSlot (s : State) (n : Nat) : State :=
  let a := s.slotAction n
  let arg := s.slotArg n
  ((s.orReg (wTB + 0x30) (BitVec.ofNat 64 (2 ^ n))).moveSlot n 1).actSlot n a arg

/-- Insert a slot in the order of its tick, then its number. -/
def insertSlot (x : Nat × Nat) : List (Nat × Nat) → List (Nat × Nat)
  | [] => [x]
  | y :: t => if x.1 < y.1 ∨ (x.1 = y.1 ∧ x.2 ≤ y.2) then x :: y :: t else y :: insertSlot x t

/-- Armed slots due from the present tick count to `t` in this epoch, in firing order (R326). -/
def State.dueSlots (s : State) (t : Nat) : List (Nat × Nat) :=
  ((List.range Config.eventSlots).filter fun n =>
    s.slotArmed n && s.slotEpoch n == s.tb.epoch.toNat && decide (s.tb.tick ≤ s.slotTick n) &&
      decide (s.slotTick n ≤ t) && decide (s.slotTick n < s.tb.period)).foldl
    (fun l n => insertSlot (s.slotTick n, n) l) []

/-- Refresh runs in windows: REF_MODE is in effect and the timebase schedules (R302, R303). -/
def State.windowed (s : State) : Bool := s.tb.refMode && !s.tb.fallback

/-- Whether a refresh window is open. -/
def State.inRefresh (s : State) : Bool :=
  match s.tb.window with
  | some (_, e) => decide (s.tb.now < e)
  | none => false

/-- All-bank operations that a pseudo-channel can have issued by a tick of a window: one every 200 ns, 50 ticks, as long as
it ends within the window (R302). -/
def windowOps (start stop t : Nat) : Nat := min ((stop - start) / 50) ((t - start + 49) / 50)

/-- `k` all-bank operations reduce the debt of every bank, until the highest is zero. -/
def refreshed (k : Nat) (debt : Tab Nat) : Tab Nat :=
  debt.foldl (fun (m : Tab Nat) p => Tab.set 0 m p.1 (Tab.get 0 debt p.1 - k)) debt

/-- What an open window refreshes while `k` ticks pass; it closes at its end. In distributed mode it issues nothing. -/
def State.refreshTicks (s : State) (k : Nat) : State :=
  match s.tb.window with
  | none => s
  | some (a, e) =>
    let t := s.tb.now + k
    let ops := windowOps a e t - windowOps a e s.tb.now
    let s : State := if s.windowed && ops != 0 then
        (List.range Config.dramStacks).foldl (fun (s : State) n =>
          s.setStack n { s.stack n with debt := refreshed ops (s.stack n).debt }) s
      else s
    if e ≤ t then { s with tb := { s.tb with window := none } } else s

/-- `k` ticks pass: what counts cycles and ticks counts, refresh windows go on, and EPOCH_OUT is released after its 16
ticks (R324). -/
def State.passTime (s : State) (k : Nat) : State :=
  let s := (s.countTime k).refreshTicks k
  let t := s.tb.now + k
  { s with tb := { s.tb with now := t }
           pins := if s.pins.epochOut = .low && decide (s.tb.outUntil ≤ t) then { s.pins with epochOut := .released } else s.pins }

/-- Ticks pass and the tick count rises. -/
def State.setTick (s : State) (t : Nat) : State :=
  let s := s.passTime (t - s.tb.tick)
  { s with tb := { s.tb with tick := t } }

/-- A tick passes that no tick count of an epoch holds: the last of a period, or one with RUN 0. -/
def State.lastTick (s : State) : State := s.passTime 1

/-- Ticks pass up to `t`, and the slots on the way fire, or are skipped where none fires. -/
def State.passSlots (s : State) (t : Nat) : State :=
  ((s.dueSlots t).foldl (fun (s : State) (p : Nat × Nat) =>
    let s := s.setTick p.1
    if s.slotsFire then s.fireSlot p.2 else s.skipSlot p.2 1) s).setTick t

/-! ### Modes -/

def TbMode.code : TbMode → Nat
  | .stopped => 0
  | .tracking => 1
  | .holdover => 2
  | .unscheduled => 3

/-- Remote visibility is withdrawn: every remote line leaves (R347). -/
def State.loseVis (s : State) : State := ({ s with tb := { s.tb with novis := true } } : State).dropAllRemote

/-- Entry to unscheduled mode (R319, R303, R347). -/
def State.unschedule (s : State) : State :=
  ({ s with tb := { s.tb with mode := .unscheduled, hold := 65, fallback := true } } : State).loseVis

/-- Firmware reports a change of mode (R319, R397). -/
def State.reportMode (s : State) : State :=
  s.report 0x06 noUnit 0 (BitVec.ofNat 64 s.tb.mode.code) (BitVec.ofNat 64 s.tb.hold)

/-- Firmware reports the loss to the driver and to the management controller (R319). -/
def State.reportLoss (s : State) : State :=
  let s := s.reportMode
  if s.ctl.stalled then s else s.event (.timebase s.tb.mode.code s.tb.hold)

/-- A boundary stands as self-generated (R318, R319). -/
def State.missed (s : State) : State :=
  let s := s.bump (wTB + 0x28) 31 16 1
  let s : State := { s with tb := { s.tb with hold := min 65 (s.tb.hold + 1) } }
  if s.tb.hold ≥ 65 ∧ s.tb.mode ≠ .unscheduled then s.unschedule.reportMode
  else if s.tb.mode = .tracking then
    ({ s with tb := { s.tb with mode := .holdover } } : State).reportLoss
  else s

/-- No pulse or packet came within TOL ticks of a provisional boundary (R318). -/
def State.tolMissed (s : State) : State := ({ s with tb := { s.tb with prov := false } } : State).missed

/-- Ticks pass up to a tick count of this epoch, with everything that falls due on the way. -/
def State.passTo (s : State) (t : Nat) : State :=
  if s.tb.prov ∧ s.tbTol < t then ((s.passSlots (max s.tb.tick s.tbTol)).tolMissed).passSlots t
  else s.passSlots t

/-- VLAG of R343. -/
def State.vlagNow (s : State) : Nat :=
  max 2 (1 + (563 * s.maxHop + 150 + s.tbTol + s.tb.period - 1) / s.tb.period)

/-- A packet's epoch number against the device's own (R321). -/
def State.jump (s : State) (e : BitVec 48) : State :=
  if e = s.tb.epoch then s
  else ({ s with tb := { s.tb with epoch := e } } : State).orReg (wTB + 0x08) (BitVec.ofNat 64 (2 ^ 58))

/-- A packet's period replaces TB_PERIOD.PERIOD (R321). -/
def State.takePeriod (s : State) (p : Nat) : State :=
  let v := max 250 (p % 2 ^ 22)
  { s.setReg (wTB + 0x20) (BitVec.ofNat 64 v) with tb := { s.tb with period := v } }

/-- How a boundary comes about: confirmed, provisional or self-generated. -/
inductive BndKind where
  | conf | prov | self
deriving DecidableEq, Repr

/-- Step 6 of R324: EPOCH_OUT and the timing packets of a master (R356). DST and TAG of a TIME packet are
given no value. -/
def State.boundaryOut (s : State) : State :=
  if s.tb.mode ≠ .tracking then s
  else
    let s := if (s.reg wTB).toNat.testBit 6 then { s with pins := { s.pins with epochOut := .low },
                                                                     tb := { s.tb with outUntil := s.tb.now + 16 } } else s
    if !(s.reg wTB).toNat.testBit 5 || !s.pelEn then s
    else
      let send := s.regF (wPEL + 0x30) 31 16
      ((List.range 16).foldl (fun (s : State) n =>
        if send.testBit n && (s.port n).state == .up then
          let x := Config.freeValue s.free
          s.emit n (s.packet 8 (W64.fld x 15 0) (W64.fld x 35 16) 0 s.tb.period ((s.tb.epoch.toNat + 1) % 2 ^ 48)
            s.tb.period 0 0 [])
        else s) s).draw

/-- A change of SRC takes effect (R323). -/
def State.takeSrc (s : State) : State :=
  let new := s.regF wTB 1 0
  if new = s.tb.src then s
  else
    let old := s.tb.src
    let s : State := { s with tb := { s.tb with src := new } }
    if new = 2 then { s with tb := { s.tb with mode := .tracking, hold := 0, prov := false } }
    else if old = 2 then s.unschedule
    else s

/-- A boundary, in the order of R324. -/
def State.boundary (s : State) (k : BndKind) (pkt : Option (BitVec 48 × Nat)) : State :=
  -- 1. the counter and the tick count; remote lines leave (R340)
  let s : State := { s with tb := { s.tb with epoch := s.tb.epoch + 1, tick := 0 } }
  let s := match pkt with
    | some p => s.jump p.1
    | none => s
  let s := s.dropAllRemote
  -- 2. writes that wait for a boundary
  let s : State := { s with tb := { s.tb with period := s.regF (wTB + 0x20) 21 0 } }
  let s := match pkt with
    | some p => s.takePeriod p.2
    | none => s
  let s := s.applyStacks
  let s := match k with
    | .conf => { s with tb := { s.tb with hold := 0, mode := .tracking, prov := false } }
    | .prov => { s with tb := { s.tb with prov := true, provLockless := !s.tb.lock } }
    | .self => s.missed
  let s := s.takeSrc
  let s : State := { s with tb := { s.tb with slotsHeld := false, novis := s.tb.novis && s.tb.mode != .tracking } }
  let s : State := { s with tb := { s.tb with fallback := s.tb.fallback && !s.slotsFire },
                            pel := { s.pel with vlag := s.vlagNow } }
  let s := s.sweepSlots 0 false
  -- 3. the governor
  let s := s.applyGovernor
  -- 4. fence.e
  let s := allCores.foldl (fun (s : State) n =>
    let out := s.storesOut n
    s.updCore n fun c => { c with outAtBoundary := out }) s
  let s := s.endFences
  -- barriers count the boundary (R394)
  let s : State := { s with ctl := { s.ctl with lists := match s.ctl.lists with
      | [] => []
      | j :: t => (match j.hold with
        | .barrier sh n => if n ≤ (s.sheaf sh).toNat then j else { j with waited := j.waited + 1 }
        | _ => j) :: t } }
  -- 5. slots at tick 0, then 6.
  (s.passSlots 0).boundaryOut

/-- The tick count reaches PERIOD (R318, R319, R323). -/
def State.atPeriod (s : State) : State :=
  -- A provisional boundary of an epoch no longer than TOL was never confirmed.
  let s := if s.tb.prov then s.tolMissed else s
  if s.tb.src = 2 then s.boundary .conf none
  else if s.tb.mode = .tracking then s.boundary .prov none
  else s.boundary .self none

/-- A tick count taken back to 0 without an increment (R318, R320, R321). -/
def State.restartTick (s : State) (pkt : Option (BitVec 48 × Nat)) : State :=
  let s : State := { s with tb := { s.tb with tick := 0 } }
  match pkt with
  | some p => ((s.jump p.1).takePeriod p.2).sweepSlots 0 false
  | none => s.sweepSlots 0 false

/-- A pulse or packet arrives (R318, R320). -/
def State.arrival (s : State) (pkt : Option (BitVec 48 × Nat)) : State :=
  let want := if pkt.isSome then 1 else 0
  if !s.tbRun || s.tb.src ≠ want then s
  else if s.tb.mode = .holdover ∨ s.tb.mode = .unscheduled then
    let was := s.tb.mode == .unscheduled
    let s : State := { s with tb := { s.tb with hold := 0, mode := .tracking, prov := false } }
    if 2 * s.tb.tick < s.tb.period then
      ({ s with tb := { s.tb with slotsHeld := was || s.tb.slotsHeld } } : State).restartTick pkt
    else s.boundary .conf pkt
  else if s.tb.prov then
    let less := s.tb.provLockless
    let s : State := { s with tb := { s.tb with prov := false } }
    let s := if less then s.missed else { s with tb := { s.tb with hold := 0 } }
    s.restartTick pkt
  else if s.tb.tick < s.tb.period - s.tbTol then s.bump (wTB + 0x28) 47 32 1
  else s.boundary .conf pkt

/-! ### RUN (R323) -/

/-- RUN becomes 1. -/
def State.startRun (s : State) : State :=
  let s : State := { s with tb := { s.tb with src := s.regF wTB 1 0, prov := false, slotsHeld := false },
                            pwr := { s.pwr with everRun := true } }
  let s : State :=
    if s.tb.src = 2 then { s with tb := { s.tb with mode := .tracking, hold := 0 } } else s.unschedule
  s.sweepSlots s.tb.tick false

/-- RUN becomes 0: MODE is stopped at once, and waiting fence.e complete (R323, R347). -/
def State.stopRun (s : State) : State :=
  let s : State := { s with tb := { s.tb with mode := .stopped, hold := 0, prov := false, src := s.regF wTB 1 0 } }
  -- A WAIT_EPOCH that waits fails (R394).
  let s : State := { s with ctl := { s.ctl with lists := s.ctl.lists.map fun (j : ListJob) =>
    match j.hold with
    | .epoch n => { j with stopped := j.stopped || decide (s.tb.epoch.toNat < n) }
    | _ => j } }
  s.loseVis.endFences

/-- A write of TB_CTRL (R331, R323): TOL 0 is written as 1, SRC 0b11 as 0b10. -/
def State.writeTbCtrl (s : State) (v : W64) : State :=
  let was := s.tbRun
  let tol := if W64.fld v 23 16 = 0 then 1 else W64.fld v 23 16
  let src := if W64.fld v 1 0 = 3 then 2 else W64.fld v 1 0
  let new := W64.setFld (W64.setFld (v &&& 0xFF0073) 23 16 tol) 1 0 src
  let s := s.setReg wTB new
  if s.tbRun then (if was then s else s.startRun)
  else if was then s.stopRun
  else { s with tb := { s.tb with src := src } }

/-- A write of a slot's control word (R328, R329): refused where the action or its argument is reserved. -/
def State.writeSlotCtl (s : State) (n : Nat) (v : W64) : State :=
  let v := v &&& (fmask 63 63 ||| fmask 25 0)
  let arming := v.toNat.testBit 63 && !s.slotArmed n
  let ok := match slotArgBits (W64.fld v 25 22) with
    | some m => s.slotArg n &&& ~~~m == 0
    | none => false
  if arming && !ok then
    (s.setReg (slotAt n + 8) (W64.setFld v 63 63 0)).orReg (wTB + 0x08) (BitVec.ofNat 64 (2 ^ 57))
  else (s.setReg (slotAt n + 8) v).sweepSlot n s.tb.tick true

/-! ### One tick -/

/-- One tick of the tick clock passes with everything that falls due in it. -/
def State.oneTick (s : State) : State :=
  if !s.pins.clocks then s
  else if !s.tbRun then s.lastTick
  else if s.tb.period ≤ s.tb.tick + 1 then
    let s := s.passTo (s.tb.period - 1)
    s.lastTick.atPeriod
  else s.passTo (s.tb.tick + 1)

end Sys2Proof.Machine
end

