-- ==== Sys2Proof/Machine/Boot.lean ====
section
/-! DEFINITION. Resets of the whole device (R437 to R441), the image and its checks (R443, R444), boot and recovery
mode (R446, R449), what firmware reloads from flash (R428, R460, R464) and the release of cores (R119). -/

namespace Sys2Proof.Machine

/-! ### The image (R443, R444) -/

/-- Bytes of the image region; an erased byte reads 0xFF (R450). -/
def State.imageBytes (s : State) (o n : Nat) : List Byte :=
  (List.range n).map fun i => Tab.get 0xFF s.sec.flash.image (o + i)

def State.imageWord (s : State) (o n : Nat) : Nat := ofBytes (s.imageBytes o n)

/-- Item 1 of R444. -/
def State.headerOk (s : State) : Bool :=
  s.imageWord 0 4 == 0x4C475046 && s.imageWord 4 4 == 4096 && decide (1 ≤ s.imageWord 8 4) &&
    decide (s.imageWord 8 4 ≤ 50327552) && (s.imageBytes 18 6).all (fun b => b == 0) &&
    (s.imageBytes 1048 3048).all (fun b => b == 0)

/-- What the signature covers: header bytes 0 to 535 and the body (R443). -/
def State.imageSigned (s : State) : List Byte := s.imageBytes 0 536 ++ s.imageBytes 4096 (s.imageWord 8 4)

/-- SEC_BOOT.REASON for the image as it stands, 0 where R444 accepts it (R449, R465). -/
def State.imageFault (s : State) : Nat :=
  if !s.sec.flash.readable then 2
  else if !s.headerOk then 3
  else if sha512 (s.imageBytes 24 512) ≠ s.sec.fuses.keyHash then 4
  else if s.imageWord 16 1 < s.sec.fuses.svnFloor then 5
  else if !pssVerify (s.imageBytes 24 512) (s.imageBytes 536 512) s.imageSigned then 6
  else 0

/-! ### Reset (R438 to R441) -/

/-- A rank of resets: the wider prevails (R440). -/
def ResetKind.rank : ResetKind → Nat
  | .cold => 2
  | .warm => 1
  | .device => 0

/-- What a cold, warm or device reset leaves (R438): fuses, flash, the remap tables and the retired list as
they stood, the lands' inputs and the test port; SEC_NONCE takes a new value (R459). -/
def State.resetWhole (s : State) (k : ResetKind) : State :=
  let booting := s.sec.stage == 0 || s.sec.stage == 2
  let k := if booting && decide (k.rank < s.sec.lastReset.rank) then s.sec.lastReset else k
  let m : Mem := { Mem.reset with retired := s.mem.retired, remaps := s.mem.remaps }
  let f : FaultLog := { FaultLog.reset with
    ring := s.fault.ring, ring2 := s.fault.ring2, spoilt := s.fault.spoilt, nextNum := s.fault.nextNum }
  let x : Security := { Security.reset with fuses := s.sec.fuses, flash := s.sec.flash,
                                            nonce := Config.freeValue s.free, lastReset := k }
  let p : Pins := { s.pins with readyN := .released, faultN := .released, alertN := .released, thermtripN := .released,
                                epochOut := .released, i3cDyn := none, xspiUntil := 0 }
  let t : Timebase := { Timebase.reset with timeref := s.tb.timeref }
  { State.reset with pending := s.pending, mem := m, fault := f, sec := x, pins := p, tb := t, jtag := s.jtag,
                     free := s.free + 1 }

/-! ### Time 0 of a boot (R446, R449, R478) -/

/-- Recovery mode with its first cause (R449). -/
def State.recovery (s : State) (reason : Nat) : State :=
  { s with sec := { s.sec with stage := 1, reason := reason, erased := [], imageDue := false, upd := .idle }
           pins := { s.pins with readyN := .released, faultN := .released } }

/-- XSPI_RESET_N is low for 10 µs, 2,500 ticks, at the start of a boot (R479). -/
def xspiResetTicks : Nat := 2500

/-- Power is good and PERST# is high: the boot ROM starts and samples the straps. -/
def State.startBoot (s : State) : State :=
  if !(s.pins.clocks && s.pins.pwrgood && s.pins.perstHigh) then s
  else
    let s : State := { s with pins := { s.pins with
      xspiUntil := s.tb.now + xspiResetTicks, strap := !s.pins.recoveryN, i3cStatic := BitVec.ofNat 7 (0x38 + 2 * b1 s.pins.sa1 + b1 s.pins.sa0) } }
    if s.pins.strap then s.recovery 1 else s

/-! ### What firmware loads (R428, R460) -/

/-- The row that A of a ROW_REMAP entry names (R425). -/
def rowOfCode (stack : Nat) (a : Nat) : Row := ⟨stack, a >>> 40, (a >>> 32) % 256, a % 2 ^ 32⟩

/-- A unit takes the standing of a state entry (R428). -/
def State.applyEntry (s : State) (e : HistEntry) : State :=
  let a := e.a.toNat
  if e.kind = 0x01 then s.updEng e.unit fun x => { x with chkredir := true, redir := a }
  else if e.kind = 0x02 then s.updEng e.unit fun x => { x with state := .quarantined, ok := false }
  else if e.kind = 0x03 then
    s.updEng e.unit fun x => { x with state := .retired, ok := false, chkredir := false, redir := 0,
                                      lane := if e.b.toNat < 64 then e.b.toNat else x.lane }
  else if e.kind = 0x04 then
    if a = 1 then s.updEng e.unit fun x => { x with state := .service, ok := true }
    else s.updEng e.unit fun x => { x with chkredir := false, redir := 0 }
  else if e.kind = 0x06 then
    s.updEng e.unit fun x => { x with lower := x.lower || a == 0, upper := x.upper || a == 1,
                                      lane := if e.b.toNat < 64 then e.b.toNat else x.lane }
  else if e.kind = 0x07 then s.updCore e.unit fun c => { c with retired := true }
  else if e.kind = 0x08 then
    if e.unit < 0x100 then { s with mem := { s.mem with slotRet := s.mem.slotRet.add (slotKey e.unit a e.b.toNat) } }
    else { s with mem := { s.mem with l1Ret := s.mem.l1Ret.add (l1Key (e.unit - 0x100) a e.b.toNat) } }
  else if e.kind = 0x09 then
    let r := rowOfCode e.unit a
    { s with mem := { s.mem with
      remaps := s.mem.remaps ++ [(r, e.b.toNat)]
      spares := Tab.set 0 s.mem.spares r.bankKey (max (s.usedSpares r) (e.b.toNat + 1 - 16384)) } }
  else if e.kind = 0x0A then
    if s.mem.retired.length < 4096 ∧ !s.mem.retired.contains (a / 4096)
    then { s with mem := { s.mem with retired := s.mem.retired ++ [a / 4096] } } else s
  else s

/-- Firmware reads both copies of the history: an entry that fails its CRC in both is ignored, and sets HISTERR (R423).
Which copies fail, and which of the writes to come, is the flash's (free values). -/
def State.readHistory (s : State) : State :=
  let f : FaultLog := { s.fault with
    spoilt := s.fault.spoilt ++ Config.flashSpoilt s.free, writeFails := Config.flashFails s.free }
  { s with fault := { f with histErr := f.histErr || f.lost } }

/-- Every unit's standing, as the history gives it (R428). -/
def State.loadHistory (s : State) : State :=
  s.fault.entries.foldl State.applyEntry { s with mem := { s.mem with remaps := [], spares := [], retired := [] } }

/-- Kind of the latest state entry of an engine, 0 for none. -/
def State.latestEntry (s : State) (e : Nat) : Nat :=
  s.fault.entries.foldl (fun k h =>
    if h.unit = e ∧ (h.kind = 0x01 ∨ h.kind = 0x02 ∨ h.kind = 0x03 ∨ h.kind = 0x04 ∨ h.kind = 0x06) then h.kind else k) 0

/-- Engines that the history shows quarantined or redirected are self-tested (R418, R428). -/
def State.bootTests (s : State) : State :=
  (s.engines.map fun p => p.1).foldl (fun (s : State) e =>
    let k := s.latestEntry e
    if k ≠ 0x01 ∧ k ≠ 0x02 then s
    else
      (s.updEng e fun x => { x with state := .testing, ok := false, why := if k = 0x02 then .boot else .redirect }).leaveService e) s

/-- The boot summary (R434). With no entry held, no NUM is stated. -/
def State.bootSummary (s : State) : List Byte :=
  let num := match s.fault.entries.getLast? with
    | some e => e.num.toNat
    | none => (Config.freeValue s.free).toNat
  bytesOf 4 num ++ bytesOf 2 (min s.sec.flash.boots 0xFFFF) ++ bytesOf 2 s.retiredEngines ++ bytesOf 2 s.retiredHalves ++
    bytesOf 1 s.retiredCores ++ bytesOf 1 s.health ++ bytesOf 4 (s.mem.slotRet.length + s.mem.l1Ret.length) ++
    bytesOf 4 s.mem.remaps.length ++ bytesOf 2 s.mem.retired.length ++ bytesOf 10 0

/-- The owner key that a transition leaves, from STATE to its target (R458, R460). -/
def Flash.nextKey (f : Flash) : Option (List Byte) :=
  if f.lcTarget = 1 ∨ f.lcTarget = 5 then none
  else if f.lcTarget = 2 ∧ f.lcState = 1 then f.newKey
  else f.ownerKey

/-- Step 3 of R460: a pending transition installs or erases the owner key, or blows the identity kill. -/
def State.resumeLifeCycle (s : State) : State :=
  let f := s.sec.flash
  if !f.lcPending then s
  else { s with sec := { s.sec with
    flash := { f with ownerKey := f.nextKey }
    fuses := { s.sec.fuses with idKill := s.sec.fuses.idKill || f.lcTarget == 5 } } }

/-- Step 4 of R460, once an overwrite has run whole. -/
def State.endLifeCycle (s : State) : State :=
  let f := s.sec.flash
  if !f.lcPending then s
  else { s with sec := { s.sec with flash := { f with lcState := f.lcTarget, lcPending := false, newKey := none } } }

/-- Firmware starts (R446, R465): image fields, boot count, life cycle, calibration, standings, boot summary. -/
def State.startFirmware (s : State) : State :=
  let x : Security :=
    { s.sec with
      stage := 2, reason := 0, svn := s.imageWord 16 1, imgver := BitVec.ofNat 32 (s.imageWord 12 4),
      raise := (s.imageWord 17 1).testBit 0, key := s.imageBytes 24 512, digest := sha512 s.imageSigned,
      cal := s.sec.flash.cal, calChanged := false, flash := { s.sec.flash with boots := s.sec.flash.boots + 1 } }
  let s : State := { s with sec := x, pins := { s.pins with faultN := .high } }
  let s := (s.resumeLifeCycle.readHistory).loadHistory
  let s : State := { s with fault := { s.fault with health := s.health } }
  let b := s.bootSummary
  let s : State := { s with sec := { s.sec with summary := b } }
  (s.event (.boot b)).draw.bootTests

/-! ### Cores (R119, R439) -/

/-- A core that is held, not retired and in no reset is released at M level. -/
def State.releaseCore (s : State) (n : Nat) (entry : W64) : State :=
  let c := s.core n
  if c.mode ≠ .held ∨ c.retired ∨ c.resetting then s
  else s.setCore n { Core.reset with
    mode := .running, arch := { Arch.reset with pc := entry &&& ~~~3 }, noTake := c.noTake }

/-- A core that a per-core reset leaves (R439): all zero but what R420 and R390 keep. -/
def Core.afterReset (c : Core) : Core := { Core.reset with retired := c.retired, noTake := c.noTake }

/-- The operand caches of a core's engines are zeroed, but where one runs another core's operation (R439, R191). -/
def State.zeroOperandCaches (s : State) (n : Nat) : State :=
  (List.range 8).foldl (fun (s : State) i =>
    let e := s.eng (8 * n + i)
    match [e.run0, e.run1].findSome? (fun r => r.bind fun r => if r.core = n then none else some (r.core, r.seq)) with
    | some o => s.setEng (8 * n + i) { e with zeroDue := some o }
    | none => s.setEng (8 * n + i) { e with bheld := none, zeroDue := none }) s

/-- Whether stores of a core's store buffer are on their way still (R439); held stores are discarded. -/
def State.bufferOut (s : State) (n : Nat) : Bool :=
  (s.updCore n fun c => { c with heldSt := [] }).storesOut n

/-- Steps 2 and 3 of R439. -/
def State.finishCoreReset (s : State) (n : Nat) : State :=
  let s := (s.cancelTops n).loseTask n 0 0 true
  let s := (s.dropB n fun _ => true).zeroOperandCaches n
  let s := (s.core n).l1Miss.foldl (fun (s : State) m => s.leaveMiss n m.line) s
  s.updCore n Core.afterReset

end Sys2Proof.Machine
end

