-- ==== Sys2Proof/Machine/Regs.lean ====
section
/-! DEFINITION. The register windows and BAR0 (R11 to R17, R374, R379, R380): what every register reads as,
what a write does, and the actions that writes start: Swath (R283 to R285), ports (R362), mailboxes (R383). -/

namespace Sys2Proof.Machine

/-! ### MX window (R217, R430) -/

def EngState.code : EngState → Nat
  | .service => 0
  | .quarantined => 1
  | .testing => 2
  | .retired => 3

def Engine.word (e : Engine) : W64 :=
  BitVec.ofNat 64 (e.redir % 1024 * 2 ^ 44 + b1 e.chkredir * 2 ^ 43 + e.state.code * 2 ^ 40 +
    min 15 (inWindow e.ops e.susp).length * 2 ^ 36 + min 15 (inWindow e.ops e.trans).length * 2 ^ 32 + e.ops % 2 ^ 32)

def Engine.laneWord (e : Engine) : W64 :=
  BitVec.ofNat 64 (min 15 (e.hits e.lane) * 2 ^ 10 + e.lane % 64 * 16 + b1 e.upper * 2 + b1 e.lower)

/-! ### LLC window (R247, R283, R289, R431) -/

def VerState.code : VerState → Nat
  | .free => 0
  | .opened => 1
  | .closed => 2
  | .discarding => 3

/-- Footprint of a version as LLC_VERn shows it: zero once FREE (R247). -/
def State.verWord (s : State) (v : Nat) : W64 :=
  let x := s.ver v
  let foot := min 65536 x.foot
  BitVec.ofNat 64 (x.state.code * 2 ^ 61 + x.last.toNat * 2 ^ 59 + b1 x.nf * 2 ^ 58 + b1 (decide (foot ≥ 65536)) * 2 ^ 57 +
    b1 x.defer * 2 ^ 56 + b1 (s.setStalled v) * 2 ^ 55 + (s.runners v).length * 2 ^ 48 + x.cap % 128 * 2 ^ 40 + foot)

def Version.dfa (x : Version) : W64 :=
  BitVec.ofNat 64 (b1 x.dfValid * 2 ^ 63 + x.dfCore % 128 * 2 ^ 40 + x.dfCause % 128 * 2 ^ 32 + x.dfTask.toNat)

def State.swath (s : State) (ch : Nat) : Swath := Tab.get Swath.reset s.mem.swath ch
def State.setSwath (s : State) (ch : Nat) (x : Swath) : State :=
  { s with mem := { s.mem with swath := Tab.set Swath.reset s.mem.swath ch x } }

def swAt (ch : Nat) : Nat := wLLC + 0x1000 + 64 * ch

/-- LLC_SWn_STAT: REJECT and STATUS are stored, BUSY and DONE the channel's. -/
def State.swStat (s : State) (ch : Nat) : W64 :=
  let x := s.swath ch
  let st := if x.busy then 0xFF else s.regF (swAt ch + 0x18) 55 48
  BitVec.ofNat 64 (b1 x.busy * 2 ^ 63 + s.regF (swAt ch + 0x18) 62 62 * 2 ^ 62 + st * 2 ^ 48 + x.count % 2 ^ 34)

/-- The window registers of the last-level cache. -/
def State.readLlc (s : State) (o : Nat) : W64 :=
  if o = 0x10 then BitVec.ofNat 64 s.pinUse
  else if o = 0x30 then
    BitVec.ofNat 64 (s.regF (wLLC + 0x30) 63 63 * 2 ^ 63 + s.mem.l1Ret.length % 65536 * 65536 + s.mem.slotRet.length % 65536)
  else if 0x1000 ≤ o ∧ o < 0x1400 then
    if o % 64 = 0x18 then s.swStat ((o - 0x1000) / 64) else s.reg (wLLC + o)
  else if 0x8000 ≤ o ∧ o < 0x8200 then
    let v := (o - 0x8000) / 32
    if o % 32 = 0 then s.verWord v
    else if o % 32 = 8 then (s.ver v).dfa
    else if o % 32 = 16 then (s.ver v).dfTval
    else 0
  else s.reg (wLLC + o)

/-! ### MEM window (R314) -/

/-- Fewest unused spares of any bank of a stack (R314). -/
def State.sparesOf (s : State) (st : Nat) : Nat :=
  16 - min 16 ((s.mem.spares.filter fun p => p.1 / (32 * 96) == st).foldl (fun m p => max m p.2) 0)

/-- Highest bank debt of a stack. -/
def Stack.topDebt (x : Stack) : Nat := x.debt.foldl (fun m p => max m p.2) 0

def State.stackWord (s : State) (st : Nat) : W64 :=
  let x := s.stack st
  BitVec.ofNat 64 (b1 x.crit * 2 ^ 40 + x.refx % 4 * 2 ^ 38 + x.zone % 4 * 2 ^ 36 +
    b1 (s.tb.fallback && s.tb.refMode) * 2 ^ 35 + b1 x.forced * 2 ^ 34 + min 512 x.topDebt * 2 ^ 24 +
    s.sparesOf st * 2 ^ 16 + min 255 x.temp)

/-- MEM_WIPE counts the MiB of the overwrite (R311). -/
def State.readMem (s : State) (o : Nat) : W64 :=
  if o = 0x08 then if s.mem.wiping then BitVec.ofNat 64 (2 ^ 63 + s.mem.wipeDone % 2 ^ 21) else 0x180000
  else if o = 0x10 then BitVec.ofNat 64 (s.regF (wMEM + 0x10) 63 63 * 2 ^ 63 + s.mem.retired.length)
  else if 0x400 ≤ o ∧ o < 0x500 then s.stackWord ((o - 0x400) / 8)
  else s.reg (wMEM + o)

/-! ### TB window (R331) -/

def State.readTb (s : State) (o : Nat) : W64 :=
  if o = 0x08 then
    (s.reg (wTB + 8) &&& (fmask 62 62 ||| fmask 59 57)) |||
      BitVec.ofNat 64 (b1 s.tb.lock * 2 ^ 63 + s.tb.mode.code * 2 ^ 60 + s.tb.hold)
  else if o = 0x10 then s.tb.epoch.setWidth 64
  else if o = 0x18 then BitVec.ofNat 64 (s.tb.epoch.toNat % 2 ^ 42 * 2 ^ 22 + s.tb.tick % 2 ^ 22)
  else s.reg (wTB + o)

/-! ### PEL window (R362) -/

def PortState.code : PortState → Nat
  | .down => 0
  | .training => 1
  | .up => 2

def Port.word (p : Port) : W64 :=
  BitVec.ofNat 64 (p.state.code * 2 ^ 62 + b1 p.width * 2 ^ 61 + p.peer.toNat * 2 ^ 32 + min 65535 p.downs * 2 ^ 16 +
    min 65535 p.replays)

def State.readPel (s : State) (o : Nat) : W64 :=
  if o = 0x18 then
    (s.reg (wPEL + 0x18) &&& fmask 62 60) |||
      BitVec.ofNat 64 (b1 s.tb.novis * 2 ^ 63 + s.pel.vlag % 64 * 2 ^ 48 + s.portsUp)
  else if 0x400 ≤ o ∧ o < 0x500 ∧ o % 16 = 8 then (s.port ((o - 0x400) / 16)).word
  else s.reg (wPEL + o)

/-! ### SEC window (R465) -/

/-- The boot ROM version is fixed and given no value. -/
def romVersion : Nat := W64.fld (Config.freeValue 0) 15 0

def State.readSec (s : State) (o : Nat) : W64 :=
  if o = 0x00 then s.sec.fuses.serial
  else if o = 0x08 then
    let f := s.sec.flash
    BitVec.ofNat 64 (min 0xFFFF f.boots * 65536 + b1 f.lcPending * 2048 + f.lcTarget % 8 * 256 + b1 f.ownerKey.isSome * 128 +
      f.lcState % 8)
  else if o = 0x10 then
    BitVec.ofNat 64 (romVersion * 2 ^ 48 + s.sec.svn % 256 * 2 ^ 24 + s.sec.reason % 16 * 65536 + s.sec.stage % 8)
  else if o = 0x18 then s.sec.imgver.setWidth 64
  else if o = 0x20 then s.sec.nonce
  else if o = 0x28 then BitVec.ofNat 64 (b1 s.sec.fuses.idKill * 256 + s.sec.fuses.svnFloor % 128)
  else if o = 0x30 then
    BitVec.ofNat 64 (b1 s.sec.calChanged * 2 + b1 (s.sec.cal.isNone && decide (2 ≤ s.sec.stage)))
  else s.reg (wSEC + o)

/-! ### PERF window (R508) -/

def State.readPerf (s : State) (o : Nat) : W64 :=
  if 0x200 ≤ o ∧ o < 0x300 then s.dcount ((o - 0x200) / 8)
  else if 0x1000 ≤ o ∧ o < 0x4000 then
    let i := (o - 0x1000) % 128 / 8
    if i < 10 then (s.core ((o - 0x1000) / 128)).cr (0x530 + i) else 0
  else s.reg (wPERF + o)

/-! ### MBX window (R402, R429, R498, R500) -/

/-- Mean of a list of samples, 0 for none. -/
def mean (l : List Nat) : Nat := if l.isEmpty then 0 else l.foldl (· + ·) 0 / l.length

def State.retiredMask (s : State) (lo n : Nat) : Nat :=
  (List.range n).foldl (fun m i => if (s.core (lo + i)).retired then m + 2 ^ i else m) 0

def State.readMbx (s : State) (o : Nat) : W64 :=
  if o = 0x40 then
    BitVec.ofNat 64 (b1 s.fault.fatal * 2 ^ 63 + b1 s.degraded * 2 ^ 62 + b1 s.fault.histFull * 2 ^ 61 +
      b1 s.fault.histErr * 2 ^ 60 + s.fault.fatalWhy % 16 * 2 ^ 56 + s.retiredCores % 256 * 2 ^ 40 +
      s.retiredEngines % 1024 * 2 ^ 30 + s.retiredHalves % 1024 * 2 ^ 20)
  -- Zero until firmware has read the history (R428, R429).
  else if o = 0x48 then if s.sec.stage < 2 then 0 else BitVec.ofNat 64 (s.fault.nextNum.toNat * 2 ^ 32 + s.fault.held)
  else if o = 0x50 then BitVec.ofNat 64 (s.retiredMask 0 64)
  else if o = 0x58 then BitVec.ofNat 64 (s.retiredMask 64 32)
  else if o = 0x108 then
    BitVec.ofNat 64 (b1 s.pwr.hold * 2 ^ 63 + s.regF (wMBX + 0x108) 62 62 * 2 ^ 62 + s.pwr.level % 64 * 2 ^ 48 +
      s.pwr.pendingLevel % 64 * 2 ^ 36 + mean s.pwr.p10 % 4096 * 2 ^ 24 + mean (s.pwr.pe.take 100) % 4096 * 2 ^ 12)
  else if 0x110 ≤ o ∧ o < 0x128 then s.clockWord ((o - 0x110) / 8)
  else if 0x200 ≤ o ∧ o ≤ 0x2C0 then
    let n := (o - 0x200) / 8
    BitVec.ofNat 64 ((List.range 4).foldl (fun v k => v + uint 16 (Tab.get 0 s.pwr.sensors (4 * n + k)) * 2 ^ (16 * k)) 0)
  else s.reg (wMBX + o)

/-! ### Reading a window register -/

/-- Register number `n` of 0 to 7 and the offset within the window. -/
def State.regRead (s : State) (a : Nat) : W64 :=
  let o := a % 0x10000
  if a < wLLC then
    if o < 0x1800 then (s.eng (o / 8)).word
    else if 0x2000 ≤ o ∧ o < 0x3800 then (s.eng ((o - 0x2000) / 8)).laneWord
    else 0
  else if a < wMEM then s.readLlc o
  else if a < wTB then s.readMem o
  else if a < wPEL then s.readTb o
  else if a < wSEC then s.readPel o
  else if a < wPERF then s.readSec o
  else if a < wMBX then s.readPerf o
  else s.readMbx o

/-- The RC bits of a register (R289, R331, R362, R402). -/
def rcBits (a : Nat) : W64 :=
  if a = wLLC + 0x18 ∨ a = wLLC + 0x20 ∨ a = wLLC + 0x28 then fmask 31 0
  else if a = wTB + 0x28 then fmask 47 0
  else if a = wPEL + 0x20 ∨ a = wPEL + 0x28 then fmask 63 0
  else if a = wMBX + 0x08 then fmask 63 48
  else 0

/-! ### Writing -/

/-- RW bits of the registers without an action of their own; 0 where none. -/
def rwBits (s : State) (a : Nat) : W64 :=
  let o := a % 0x10000
  if a < wLLC then 0
  else if a < wMEM then
    if o = 0x00 then 1
    else if 0x1000 ≤ o ∧ o < 0x1400 then
      if o % 64 = 0 then fmask 46 7 else if o % 64 = 8 then fmask 33 0 else 0
    else 0
  else if a < wTB then if o = 0 then 1 else 0
  else if a < wPEL then
    if 0x1000 ≤ o ∧ o < 0x1800 then if o % 32 = 0 ∨ o % 32 = 16 then fmask 63 0 else 0 else 0
  else if a < wSEC then
    if o = 0x00 then if s.pelEn then 0 else fmask 63 48 ||| fmask 15 0
    else if o = 0x30 then fmask 63 16
    else if o = 0x38 then fmask 59 48 ||| fmask 46 6
    else if 0x100 ≤ o ∧ o < 0x180 then if o % 16 = 0 then fmask 46 12 ||| fmask 3 0 else fmask 63 0
    else if (0x200 ≤ o ∧ o < 0x280) ∨ (0x1000 ≤ o ∧ o < 0x9000) then fmask 15 0
    else 0
  else if a < wPERF then
    if o = 0x40 then fmask 63 2 else if o = 0x48 then fmask 46 12 else if o = 0x50 then fmask 46 12 ||| 1 else 0
  else if a < wMBX then
    if 0x100 ≤ o ∧ o < 0x200 then fmask 23 16 ||| fmask 7 0
    else if 0x200 ≤ o ∧ o < 0x300 then fmask 63 0
    else 0
  else if o = 0x18 then fmask 46 30
  else if o = 0x30 then fmask 59 48 ||| fmask 46 5
  else 0

/-- RW1C bits of the stored registers. -/
def w1cBits (a : Nat) : W64 :=
  let o := a % 0x10000
  if wLLC ≤ a ∧ a < wMEM then
    if o = 0x30 then fmask 63 63 else if 0x1000 ≤ o ∧ o < 0x1400 ∧ o % 64 = 0x18 then fmask 62 62 else 0
  else if a = wTB + 0x08 then fmask 62 62 ||| fmask 59 57
  else if a = wTB + 0x30 then fmask 63 0
  else if a = wPEL + 0x18 then fmask 62 60
  else if a = wPEL + 0x40 then fmask 63 63
  else if a = wMBX + 0x108 then fmask 62 62
  else 0

/-- A plain write: RW fields are set, RW1C bits cleared (R11). -/
def State.plainWrite (s : State) (a : Nat) (v m : W64) : State :=
  let rw := rwBits s a &&& m
  let w1 := w1cBits a &&& m
  if rw = 0 ∧ w1 = 0 then s
  else s.setReg a (((s.reg a &&& ~~~rw) ||| (v &&& rw)) &&& ~~~(v &&& w1))

/-! ### Swath (R285) -/

/-- A Swath operation completes with a status (R285, R378). -/
def State.swathDone (s : State) (ch status : Nat) (irq : Bool) : State :=
  let s := s.setSwath ch { s.swath ch with busy := false }
  let s := s.setReg (swAt ch + 0x18) (W64.setFld (s.reg (swAt ch + 0x18)) 55 48 status)
  if irq then s.msix 2 else s

/-- A write of LLC_SWn_CMD, with GO (R283, R285). -/
def State.writeSwCmd (s : State) (ch : Nat) (v m : W64) : State :=
  let f := fmask 9 8 ||| fmask 3 1
  let a := swAt ch + 0x10
  let go := (v &&& m).toNat.testBit 0
  if go && (s.swath ch).busy then s.orReg (swAt ch + 0x18) (fmask 62 62)
  else
  let s := s.setReg a ((s.reg a &&& ~~~(f &&& m)) ||| (v &&& f &&& m))
  if !go then s
  else
    let op := s.regF a 3 1
    let pin := (s.reg a).toNat.testBit 8
    let base := s.regF (swAt ch) 46 7 * 128
    let n := s.regF (swAt ch + 8) 33 0
    let irq := (s.reg a).toNat.testBit 9
    if n = 0 || !visible base (128 * n) then s.swathDone ch 0x01 irq
    else if op = 0 || op > 5 || (pin && op != 5) then s.swathDone ch 0x02 irq
    else s.setSwath ch { Swath.reset with busy := true, first := base / 128, lines := n, op := op, pin := pin, irq := irq }

/-- A write of LLC_SWn_ABORT. -/
def State.writeSwAbort (s : State) (ch : Nat) (v : W64) : State :=
  let x := s.swath ch
  if v.toNat.testBit 0 && x.busy then s.setSwath ch { x with aborted := true } else s

/-! ### Pelvar (R362) -/

/-- A port leaves UP: what the link had not acknowledged is lost (R348, R362). -/
def Port.goDown (p : Port) : Port :=
  { p with state := .down, downs := if p.state = .up then min 65535 (p.downs + 1) else p.downs, again := 0, failed := none,
           owed := 0, stream := [], next := 0, out := [], room := 0, outAgain := 0, outFailed := none }

/-- Ports may train: not before the driver sets PEL_CFG.EN after a reset (R441), nor in recovery mode (R449). -/
def State.mayTrain (s : State) : Bool := s.pel.enabled && s.sec.stage != 1

/-- An enabled port that is DOWN trains. -/
def State.train (s : State) (n : Nat) : State :=
  let p := s.port n
  if (s.reg (wPEL + 0x400 + 16 * n)).toNat.testBit 0 && p.state == .down && s.mayTrain then
    s.setPort n { p with state := .training }
  else s

/-- A write of PEL_PORTn_CTL. An enabled port that is DOWN trains. -/
def State.writePort (s : State) (n : Nat) (v m : W64) : State :=
  let a := wPEL + 0x400 + 16 * n
  let f := fmask 15 8 ||| fmask 2 0
  let s := s.setReg a ((s.reg a &&& ~~~(f &&& m)) ||| (v &&& f &&& m))
  let en := (s.reg a).toNat.testBit 0
  let p := s.port n
  let p := if (v &&& m).toNat.testBit 3 then p.goDown else p
  let p : Port := if !en && p.state == .training then { p with state := .down } else p
  (s.setPort n p).train n

/-- A write of PEL_CFG: EN 1 is ignored while DEVNUM is 0xFFFF and lets ports train; CACHE 0 drops every remote line. -/
def State.writePelCfg (s : State) (v m : W64) : State :=
  let a := wPEL + 8
  let f := fmask 2 0 &&& m
  let new := (s.reg a &&& ~~~f) ||| (v &&& f)
  let new := if s.devnum = 0xFFFF && !s.pelEn then W64.setFld new 0 0 0 else new
  let s := s.setReg a new
  let s : State := if new.toNat.testBit 0 then
      (List.range Config.ports).foldl (fun (s : State) n => s.train n) { s with pel := { s.pel with enabled := true } }
    else s
  if new.toNat.testBit 1 then s else s.dropAllRemote

/-! ### The other registers with rules of their own -/

def clampTo (lo hi v : Nat) : Nat := max lo (min hi v)

/-- A write of a window register: value `v` under the byte mask `m` of the access (R11, R12, R17). -/
def State.regWrite (s : State) (a : Nat) (v m : W64) : State :=
  let o := a % 0x10000
  let mix := (s.reg a &&& ~~~m) ||| (v &&& m)
  if a = wLLC + 0x08 then s.setReg a (BitVec.ofNat 64 (min 0x480000 (W64.fld mix 22 0)))
  else if wLLC + 0x1000 ≤ a ∧ a < wLLC + 0x1400 ∧ o % 64 = 0x10 then s.writeSwCmd ((o - 0x1000) / 64) v m
  else if wLLC + 0x1000 ≤ a ∧ a < wLLC + 0x1400 ∧ o % 64 = 0x20 then s.writeSwAbort ((o - 0x1000) / 64) (v &&& m)
  else if wMEM + 0x400 ≤ a ∧ a < wMEM + 0x500 then
    let n := (o - 0x400) / 8
    let x := s.stack n
    s.setStack n { x with crit := x.crit && !(v &&& m).toNat.testBit 40, forced := x.forced && !(v &&& m).toNat.testBit 34 }
  else if a = wTB then s.writeTbCtrl mix
  else if a = wTB + 0x10 then
    if s.tbRun then s
    else
      let e := (s.tb.epoch.setWidth 64 &&& ~~~m) ||| (v &&& m)
      ({ s with tb := { s.tb with epoch := e.setWidth 48 } } : State).sweepSlots s.tb.tick false
  else if a = wTB + 0x20 then s.setReg a (BitVec.ofNat 64 (max 250 (W64.fld mix 21 0)))
  else if wTB + 0x1000 ≤ a ∧ a < wTB + 0x1800 ∧ o % 32 = 8 then s.writeSlotCtl ((o - 0x1000) / 32) mix
  else if wTB + 0x1000 ≤ a ∧ a < wTB + 0x1800 ∧ o % 32 = 0 then (s.plainWrite a v m).sweepSlot ((o - 0x1000) / 32) s.tb.tick true
  else if a = wPEL + 0x08 then s.writePelCfg v m
  else if wPEL + 0x400 ≤ a ∧ a < wPEL + 0x500 then
    if o % 16 = 0 then s.writePort ((o - 0x400) / 16) v m else s
  else if a = wPERF then
    let s := s.setReg a (BitVec.ofNat 64 (W64.fld mix 0 0))
    if (v &&& m).toNat.testBit 1 then (List.range 32).foldl (fun s n => s.setReg (wPERF + 0x200 + 8 * n) 0) s else s
  else if a = wMBX + 0x10 then
    let w := s.regF (wMBX + 0x08) 31 0
    let r := W64.fld mix 31 0
    if (w + 2 ^ 32 - r) % 2 ^ 32 ≤ 2048 then s.setReg a (BitVec.ofNat 64 r) else s
  else if a = wMBX + 0x40 then
    { s with fault := { s.fault with histErr := s.fault.histErr && !(v &&& m).toNat.testBit 60 } }
  else if a = wMBX + 0x100 then
    s.setReg a (BitVec.ofNat 64 (clampTo 6 36 (W64.fld mix 29 24) * 2 ^ 24 + clampTo 1000 3000 (W64.fld mix 11 0)))
  else s.plainWrite a v m

/-! ### Mailboxes (R381 to R384) -/

def MbState.code : MbState → Nat
  | .free => 0
  | .posted => 1
  | .accepted => 2
  | .done => 3

def Mailbox.ctlWord (m : Mailbox) : W64 :=
  BitVec.ofNat 64 (m.jseq.toNat * 2 ^ 32 + m.status.toNat * 256 + b1 m.badwr * 8 + b1 m.irq * 4 + m.state.code)

/-- A write of MBX_CTL (R382, R383). -/
def State.writeMbCtl (s : State) (i : Nat) (v m : W64) : State :=
  if m.toNat % 2 = 0 then s
  else
    let b := s.mb i
    let b : Mailbox := { b with irq := v.toNat.testBit 2, badwr := b.badwr && !v.toNat.testBit 3 }
    let st := v.toNat % 4
    if st = b.state.code then s.setMb i b
    else if b.state = .free ∧ st = 1 then
      let s := s.setMb i { b with state := .posted }
      { s with ctl := { s.ctl with posted := s.ctl.posted ++ [i] } }
    else if b.state = .done ∧ st = 0 then s.setMb i { b with state := .free }
    else s.setMb i { b with badwr := true }

/-- A doubleword of a mailbox. -/
def State.mbRead (s : State) (i o : Nat) : W64 :=
  let b := s.mb i
  if o = 0 then b.ctlWord
  else if o = 8 then b.cmd
  else if o < 0x800 then BitVec.ofNat 64 (ofBytes ((List.range 8).map fun k => Tab.get 0 b.args (o - 0x10 + k)))
  else if o = 0x800 then BitVec.ofNat 64 b.rsplen
  else BitVec.ofNat 64 (ofBytes ((List.range 8).map fun k => Tab.get 0 b.result (o - 0x808 + k)))

def State.mbWrite (s : State) (i o : Nat) (v m : W64) : State :=
  let b := s.mb i
  if o = 0 then s.writeMbCtl i v m
  else if o = 8 then s.setMb i { b with cmd := (b.cmd &&& ~~~m) ||| (v &&& m) }
  else if o < 0x800 then
    s.setMb i { b with args := (List.range 8).foldl (fun t k =>
      if m.toNat.testBit (8 * k) then Tab.set 0 t (o - 0x10 + k) (byteAt v k) else t) b.args }
  else s

/-! ### Journal and report ring in BAR0 (R397, R400) -/

def JEntry.bytes (e : JEntry) : List Byte :=
  bytesOf 8 e.seq ++ bytesOf 1 e.mailbox ++ bytesOf 1 e.status.toNat ++ bytesOf 2 e.code ++ bytesOf 2 e.arglen ++ bytesOf 2 0 ++
    bytesOf 8 e.accept.toNat ++ bytesOf 8 (match e.done with
      | some d => d.toNat
      | none => 2 ^ 64 - 1) ++
    bytesOf 4 e.tag.toNat ++ bytesOf 4 e.count.toNat ++ bytesOf 8 e.arg0.toNat ++ bytesOf 8 e.res0.toNat ++ bytesOf 8 0

def Report.bytes (r : Report) : List Byte :=
  bytesOf 1 r.kind ++ bytesOf 1 0 ++ bytesOf 2 r.unit ++ bytesOf 4 r.id.toNat ++ bytesOf 8 r.epoch.toNat ++ bytesOf 8 r.a.toNat ++
    bytesOf 8 r.b.toNat

/-- An aligned doubleword of BAR0 (R374). -/
def State.barRead (s : State) (d : Nat) : W64 :=
  if d < 0x20000 then s.mbRead (d / 0x1000) (d % 0x1000)
  else if d < 0x60000 then
    match Tab.get none s.ctl.journal ((d - 0x20000) / 64) with
    | some e => BitVec.ofNat 64 (ofBytes ((e.bytes.drop (d % 64)).take 8))
    | none => 0
  else if d < 0x70000 then
    match Tab.get none s.ctl.reports ((d - 0x60000) / 32) with
    | some r => BitVec.ofNat 64 (ofBytes ((r.bytes.drop (d % 32)).take 8))
    | none => 0
  else if d < 0x70400 then
    BitVec.ofNat 64 (ofBytes ((List.range 8).map fun k => Tab.get 0 s.ctl.msixTable (d - 0x70000 + k)))
  else if d = 0x70800 then s.ctl.msixPend
  else if 0x100000 ≤ d ∧ d < 0x180000 then s.regRead (d - 0x100000)
  else 0

def State.barWrite (s : State) (d : Nat) (v m : W64) : State :=
  if d < 0x20000 then s.mbWrite (d / 0x1000) (d % 0x1000) v m
  else if d < 0x70000 then s
  else if d < 0x70400 then
    ({ s with ctl := { s.ctl with msixTable := (List.range 8).foldl (fun t k =>
      if m.toNat.testBit (8 * k) then Tab.set 0 t (d - 0x70000 + k) (byteAt v k) else t) s.ctl.msixTable } } : State).msixFlush
      ((d - 0x70000) / 16)
  else if 0x100000 ≤ d ∧ d < 0x180000 then s.regWrite (d - 0x100000) v m
  else s

/-- Whether an access is one that registers accept (R16). -/
def accessOk (off size : Nat) : Bool := (size == 4 && off % 4 == 0) || (size == 8 && off % 8 == 0)

/-- The byte mask of an access within its doubleword. -/
def accessMask (off size : Nat) : W64 :=
  if size = 8 then BitVec.allOnes 64 else if off % 8 = 4 then fmask 63 32 else fmask 31 0

/-- A value placed in the half of the doubleword that it is written to. -/
def accessVal (off size : Nat) (v : W64) : W64 :=
  if size = 8 then v else if off % 8 = 4 then v <<< 32 else v &&& fmask 31 0

/-! ### Host accesses -/

/-- The device runs and PERST# is high: it answers the host. -/
def State.running (s : State) : Bool := s.pins.clocks && s.pins.pwrgood
def State.linkUp (s : State) : Bool := s.running && s.pins.perstHigh

/-- BAR0 and BAR2 are served once the host has configured the function (R377). -/
def State.hostServed (s : State) : Bool := s.linkUp && s.ctl.configured

/-- What a read returns to the host: its bytes, the poisoned attribute and Unsupported Request. -/
def State.hostAnswer (s : State) (data : List Byte) (ep ur : Bool) : State :=
  { s with ctl := { s.ctl with hostData := data, hostEp := ep, hostUr := ur } }

/-! ### Configuration space (R1, R373, R374, R377) -/

/-- The bytes of a configuration register. A 64-bit BAR shows its type in its low bits, and prefetchable in bit 3. -/
def State.cfgRead (s : State) : CfgReg → List Byte
  | .vendor => bytesOf 2 Config.vendorId.toNat
  | .device => bytesOf 2 0x0960
  | .revision => bytesOf 1 0x00
  | .classCode => bytesOf 3 0x120000
  -- MSI-X, Resizable BAR, Advanced Error Reporting, and Function Level Reset of the PCI Express capability.
  | .capabilities => bytesOf 2 0x11 ++ bytesOf 2 0x15 ++ bytesOf 2 0x01 ++ bytesOf 2 0x10
  | .command => bytesOf 2 (2 * b1 s.ctl.configured)
  | .bar0 => bytesOf 8 (s.ctl.bar0At.toNat + 4)
  | .bar2 => bytesOf 8 (s.ctl.bar2At.toNat + 12)
  | .barSize => bytesOf 1 s.ctl.bar2
  | .msixCount => bytesOf 2 64
  | .aer => bytesOf 1 (b1 s.ctl.aer)

/-- An address of a BAR of 2^n bytes. -/
def barBase (n : Nat) (v : W64) : W64 := BitVec.ofNat 64 (v.toNat / 2 ^ n * 2 ^ n)

/-- A write of a configuration register. Another size of BAR2 than 2^30 to 2^41 bytes is not taken (R374). -/
def State.cfgWrite (s : State) (r : CfgReg) (v : W64) : State :=
  match r with
  | .command => { s with ctl := { s.ctl with configured := v.toNat.testBit 1 } }
  | .bar0 => { s with ctl := { s.ctl with bar0At := barBase 21 v } }
  | .bar2 => { s with ctl := { s.ctl with bar2At := barBase s.ctl.bar2 v } }
  | .barSize =>
    if 30 ≤ v.toNat ∧ v.toNat ≤ 41 then
      { s with ctl := { s.ctl with bar2 := v.toNat, bar2At := barBase v.toNat s.ctl.bar2At } }
    else s
  | .aer => { s with ctl := { s.ctl with aer := s.ctl.aer && !v.toNat.testBit 0 } }
  | .vendor => s
  | .device => s
  | .revision => s
  | .classCode => s
  | .capabilities => s
  | .msixCount => s

/-! ### Commands -/

/-- R11 to R13, R16, R17: a write by the host or firmware. Other widths and alignments are dropped. -/
def execRegisterWrite (reg : HostReg) (size : Nat) (val : W64) (s : State) : Out :=
  match reg with
  | .cfg r => .next (if s.linkUp then s.cfgWrite r val else s)
  | .bar off =>
    if !s.hostServed || !accessOk off size then .next s
    else .next (s.barWrite (off - off % 8) (accessVal off size val) (accessMask off size))

/-- R14, R17: a read returns the RC fields of its half and clears them; an event of the same cycle stays. -/
def execRcRead (reg : HostReg) (size : Nat) (ev : W64) (s : State) : Out :=
  match reg with
  | .cfg r => .next (if s.linkUp then s.hostAnswer (s.cfgRead r) false false else s)
  | .bar off =>
    let d := off - off % 8
    if !s.hostServed then .next s
    else if !accessOk off size then .next (s.hostAnswer (bytesOf size 0) false false)
    else
      let v := s.barRead d
      let m := accessMask off size
      let data := bytesOf size (if off % 8 = 4 then (v >>> 32).toNat else v.toNat)
      let s := s.hostAnswer data false false
      if 0x100000 ≤ d ∧ d < 0x180000 then
        let a := d - 0x100000
        let rc := rcBits a &&& m
        if rc = 0 then .next s else .next (s.setReg a ((s.reg a &&& ~~~rc) ||| (ev &&& rc)))
      else .next s

/-- A 64-bit write of a window register by a command that names the register. -/
def State.writeReg (s : State) (a : Nat) (v : W64) : State :=
  if s.running then s.regWrite a v (BitVec.allOnes 64) else s

/-- R323: TB_CTRL is written with RUN 1. -/
def execRunStart (val : W64) (s : State) : Out := .next (s.writeReg wTB (val ||| fmask 4 4))

/-- R323: TB_CTRL is written with RUN 0. -/
def execRunStop (val : W64) (s : State) : Out := .next (s.writeReg wTB (val &&& ~~~(fmask 4 4)))

/-- R328: a slot's CTL is written with ARM 1. -/
def execSlotArm (slot : Nat) (val : W64) (s : State) : Out :=
  .next (if slot < Config.eventSlots then s.writeReg (slotAt slot + 8) (val ||| fmask 63 63) else s)

/-- R362: PEL_PORTn_CTL is written with RETRAIN 1. -/
def execRetrain (port : Nat) (val : W64) (s : State) : Out :=
  .next (if port < Config.ports then s.writeReg (wPEL + 0x400 + 16 * port) (val ||| fmask 3 3) else s)

/-- R362: PEL_CFG is written with EN 1. -/
def execPelEnable (val : W64) (s : State) : Out := .next (s.writeReg (wPEL + 8) (val ||| 1))

/-- R362: PEL_CFG is written with EN 0. -/
def execPelDisable (val : W64) (s : State) : Out := .next (s.writeReg (wPEL + 8) (val &&& ~~~1))

/-- R362: PEL_CFG is written with CACHE 0. -/
def execPelCacheDisable (val : W64) (s : State) : Out := .next (s.writeReg (wPEL + 8) (val &&& ~~~2))

/-- LLC_SWn_CMD is written with GO 1 and an OP (R283, R285). -/
def State.swathGo (s : State) (ch op : Nat) (val : W64) : State :=
  if ch < 16 then s.writeReg (swAt ch + 0x10) (W64.setFld (val ||| 1) 3 1 op) else s

def execClean (ch : Nat) (val : W64) (s : State) : Out := .next (s.swathGo ch 1 val)
def execInval (ch : Nat) (val : W64) (s : State) : Out := .next (s.swathGo ch 2 val)
def execZero (ch : Nat) (val : W64) (s : State) : Out := .next (s.swathGo ch 3 val)
def execUnpin (ch : Nat) (val : W64) (s : State) : Out := .next (s.swathGo ch 4 val)
def execPrefetch (ch : Nat) (val : W64) (s : State) : Out := .next (s.swathGo ch 5 val)

/-- LLC_SWn_ABORT is written with ABORT 1 (R283). -/
def execAbort (ch : Nat) (val : W64) (s : State) : Out :=
  .next (if ch < 16 then s.writeReg (swAt ch + 0x20) (val ||| 1) else s)

/-- MBX_CTL of a mailbox is written with STATE 0b01 (R383). -/
def execMailboxPost (mb : Nat) (val : W64) (s : State) : Out :=
  .next (if mb < Config.mailboxes ∧ s.hostServed then s.writeMbCtl mb (W64.setFld val 1 0 1) (BitVec.allOnes 64) else s)

/-- MBX_CTL of a mailbox is written with STATE 0b00 (R383). -/
def execMailboxFree (mb : Nat) (val : W64) (s : State) : Out :=
  .next (if mb < Config.mailboxes ∧ s.hostServed then s.writeMbCtl mb (W64.setFld val 1 0 0) (BitVec.allOnes 64) else s)

end Sys2Proof.Machine
end

