-- ==== Sys2Proof/Machine/Mgmt.lean ====
section
/-! DEFINITION. The management port: PLDM base, monitoring and firmware update (R434 to R436, R451, R452, R501), SPDM
(R454 to R456) and the I3C address (R480). -/

namespace Sys2Proof.Machine

/-- Firmware runs on the control processors (R446, R465). -/
def State.firmwareRuns (s : State) : Bool := s.pins.clocks && (s.sec.stage == 2 || s.sec.stage == 3)

/-- Recovery mode (R449). -/
def State.inRecovery (s : State) : Bool := s.pins.clocks && s.sec.stage == 1

def State.respond (s : State) (r : MgmtResp) : State := { s with fault := { s.fault with resp := r } }

/-! ### Platform monitoring (R434, R435, R501) -/

/-- The hottest of sensors `lo` to `lo` + `n` − 1, in 1/64 °C (R489). -/
def State.hottest (s : State) (lo n : Nat) : Int :=
  (List.range n).foldl (fun (m : Int) i => max m (Tab.get 0 s.pwr.sensors (lo + i))) (Tab.get 0 s.pwr.sensors lo)

/-- The hottest stack of a die, in °C (R291, R501). -/
def State.hottestStack (s : State) (die : Nat) : Nat :=
  (List.range 16).foldl (fun m i => max m (s.stack (16 * die + i)).temp) 0

/-- The reading of a numeric sensor (R501): W, 1/64 °C or kHz. -/
def State.reading (s : State) (id : Nat) : Option Int :=
  if id = 1 then some (mean s.pwr.p10)
  else if id = 2 then some (s.hottest 0 48)
  else if id = 3 then some (s.hottest 48 48)
  else if id = 4 then some (s.hottest 96 4)
  else if id = 5 then some (64 * s.hottestStack 0)
  else if id = 6 then some (64 * s.hottestStack 1)
  else if id = 7 then some (62500 * s.pwr.level)
  else none

/-- Upper warning and critical thresholds of a sensor, in the units of its reading (R501). -/
def State.thresholds (s : State) (id : Nat) : Option (Int × Int) :=
  if id = 1 then some (s.regF (wMBX + 0x100) 11 0, 3400)
  else if id = 2 ∨ id = 3 ∨ id = 4 then some (64 * 100, 64 * 105)
  else if id = 5 ∨ id = 6 then some (64 * 86, 64 * 101)
  else none

/-- The level of a sensor: 0 normal, 1 warning, 2 critical. -/
def State.sensorLevel (s : State) (id : Nat) : Nat :=
  match s.reading id, s.thresholds id with
  | some r, some t => if t.2 ≤ r then 2 else if t.1 ≤ r then 1 else 0
  | _, _ => 0

/-- A sensor event each time a reading crosses a threshold, while firmware runs (R501). -/
def State.syncSensor (s : State) (id : Nat) : State :=
  let l := s.sensorLevel id
  if !s.firmwareRuns || l = Tab.get 0 s.fault.sensors id then s
  else ({ s with fault := { s.fault with sensors := Tab.set 0 s.fault.sensors id l } } : State).event (.sensor id l)

/-- The oldest event is acknowledged, where it was sent or returned (R435, R436). -/
def State.ackEvent (s : State) : State :=
  if s.fault.shown then
    ({ s with fault := ({ s.fault with queue := s.fault.queue.tail, shown := false } : FaultLog).send } : State).syncAlert
  else s

/-- R434: GetPDR, while firmware runs. -/
def execGetPdr (record : Nat) (s : State) : Out := .next (if s.firmwareRuns then s.respond (.pdr record) else s)

/-- R434, R501: GetSensorReading. -/
def execGetSensorReading (sensor : Nat) (s : State) : Out :=
  .next (if !s.firmwareRuns then s
    else match s.reading sensor with
      | some r => s.respond (.reading sensor r)
      | none => s.respond .failed)

/-- R435: SetEventReceiver. Events that wait are sent from now on, or wait for a poll. -/
def execSetEventReceiver (async : Bool) (s : State) : Out :=
  .next (if s.firmwareRuns then
    ({ s with fault := ({ s.fault with async := async, shown := false } : FaultLog).send } : State).respond .ok else s)

/-- R435: the response to an event that firmware sent acknowledges it. -/
def execPlatformEventMessage (s : State) : Out :=
  .next (if s.firmwareRuns && s.fault.async then s.ackEvent else s)

/-- R435: the event returned before is acknowledged where asked, and the oldest waiting one is returned. -/
def execPollForPlatformEventMessage (ack : Bool) (s : State) : Out :=
  .next (if !s.firmwareRuns then s
    else
      let s := if ack then s.ackEvent else s
      let s : State := { s with fault := { s.fault with shown := s.fault.shown || !s.fault.queue.isEmpty } }
      s.respond (.event s.fault.queue.head?))

/-- R434, R451: PLDM type 0 is answered by firmware and by the boot ROM in recovery mode. -/
def execPldmType0 (command : Nat) (s : State) : Out :=
  .next (if s.firmwareRuns || s.inRecovery then s.respond (.base command) else s)

/-- R436: in-band interrupts are enabled or not. -/
def execInBandInterruptEnable (on : Bool) (s : State) : Out :=
  .next (if s.firmwareRuns then { s with fault := { s.fault with ibi := on } } else s)

/-- R480: SETDASA gives the device that answers to the static address a dynamic one. -/
def execSetdasa (stat dyn : BitVec 7) (s : State) : Out :=
  .next (if s.pins.clocks && s.pins.i3cDyn.isNone && stat == s.pins.i3cStatic then
    ({ s with pins := { s.pins with i3cDyn := some dyn } } : State).respond (.address dyn) else s)

/-- R480: ENTDAA assigns an address to a device that has none. -/
def execEntdaa (dyn : BitVec 7) (s : State) : Out :=
  .next (if s.pins.clocks && s.pins.i3cDyn.isNone then
    ({ s with pins := { s.pins with i3cDyn := some dyn } } : State).respond (.address dyn) else s)

/-! ### Writing the image (R450 to R452) -/

/-- The end of the image region. -/
def imageTop : Nat := 0x3000000

/-- An erase block is erased before its first write. -/
def State.eraseBlock (s : State) (b : Nat) : State :=
  if s.sec.erased.has b then s
  else
    let x : Flash := { s.sec.flash with image := s.sec.flash.image.filter fun p => p.1 / 65536 != b }
    { s with sec := { s.sec with flash := x, erased := s.sec.erased.add b } }

/-- Bytes written into the image region at an offset. -/
def State.writeImage (s : State) (o : Nat) (bs : List Byte) : State :=
  let s := (List.range ((o % 65536 + bs.length + 65535) / 65536)).foldl (fun (s : State) i => s.eraseBlock (o / 65536 + i)) s
  let img := (bs.zip (List.range bs.length)).foldl (fun (m : Tab Byte) p => Tab.set 0xFF m (o + p.2) p.1) s.sec.flash.image
  { s with sec := { s.sec with flash := { s.sec.flash with image := img } } }

/-! ### Firmware update (R451, R452) -/

/-- PLDM type 5 is answered by firmware and by the boot ROM in recovery mode. -/
def State.updates (s : State) : Bool := s.firmwareRuns || s.inRecovery

/-- The one component: classification Firmware (0x000A of PLDM), identifier 0x0960. -/
def ourComponent (c : Component) : Bool := c.classification == 0x000A && c.identifier == 0x0960

def State.setUpd (s : State) (u : UpdStage) : State := { s with sec := { s.sec with upd := u } }

/-- The piece that the device asks for next, at most 1,024 bytes. -/
def State.nextPiece (s : State) : Nat := min 1024 (s.sec.updSize - s.sec.updNext)

/-- A request of an update that is accepted in one stage: its effect there, a failure elsewhere. -/
def State.updWhen (s : State) (ok : Bool) (f : State → State) : State :=
  if !s.updates then s else if ok then f s else s.respond .failed

def execRequestUpdate (_c : Component) (s : State) : Out :=
  .next (s.updWhen (s.sec.upd == .idle) fun s =>
    -- In recovery mode a block is erased before its first write since entry only (R450).
    let s : State := if s.inRecovery then s else { s with sec := { s.sec with erased := [] } }
    (s.setUpd .learn).respond .ok)

def execPassComponentTable (c : Component) (s : State) : Out :=
  .next (s.updWhen (s.sec.upd == .learn && ourComponent c) fun s => (s.setUpd .ready).respond .ok)

/-- The update of the component begins, and the device asks for its first piece. -/
def execUpdateComponent (c : Component) (size : Nat) (s : State) : Out :=
  .next (s.updWhen (s.sec.upd == .ready && ourComponent c && decide (size ≤ imageTop)) fun s =>
    let s : State := { s with sec := { s.sec with updSize := size, updNext := 0 } }
    (s.setUpd .download).respond (.request 0 s.nextPiece))

/-- The piece that the device asked for arrives and is written. -/
def execRequestFirmwareData (off : Nat) (bytes : List Byte) (s : State) : Out :=
  .next (s.updWhen (s.sec.upd == .download && off == s.sec.updNext && bytes.length == s.nextPiece) fun s =>
    let s := s.writeImage off bytes
    let s : State := { s with sec := { s.sec with updNext := s.sec.updNext + bytes.length } }
    s.respond (.request s.sec.updNext s.nextPiece))

def execTransferComplete (s : State) : Out :=
  .next (s.updWhen (s.sec.upd == .download && s.sec.updNext == s.sec.updSize) fun s => (s.setUpd .verify).respond .ok)

/-- Verification is R444; a failing image is reported, and the component may be sent again. -/
def execVerifyComplete (s : State) : Out :=
  .next (s.updWhen (s.sec.upd == .verify) fun s =>
    if s.imageFault = 0 then (s.setUpd .apply).respond .ok else (s.setUpd .ready).respond (.verifyFailed s.imageFault))

def execApplyComplete (s : State) : Out :=
  .next (s.updWhen (s.sec.upd == .apply) fun s => (s.setUpd .applied).respond .ok)

/-- In recovery mode the image is booted 1 ms later (R450, R451); in service activation is deferred (R452). -/
def execActivateFirmware (s : State) : Out :=
  .next (s.updWhen (s.sec.upd == .applied) fun s =>
    let s := s.setUpd .idle
    if s.inRecovery then ({ s with sec := { s.sec with imageDue := true } } : State).respond .activated
    else s.respond .deferred)

def execCancelUpdate (s : State) : Out :=
  .next (s.updWhen (s.sec.upd != .idle) fun s => (s.setUpd .idle).respond .ok)

def UpdStage.code : UpdStage → Nat
  | .idle => 0
  | .learn => 1
  | .ready => 2
  | .download => 3
  | .verify => 4
  | .apply => 5
  | .applied => 6

def execGetStatus (s : State) : Out :=
  .next (s.updWhen true fun s => s.respond (.update (UpdStage.code s.sec.upd)))

/-! ### SPDM (R454 to R456) -/

def State.spdm (s : State) (t : Transport) : SpdmState :=
  match t with
  | .mctp => s.sec.spdmMctp
  | .mailbox => s.sec.spdmMbx

/-- The connection state of one transport; the other stays (R456). -/
def State.setSpdm (s : State) (t : Transport) (x : SpdmState) : State :=
  match t with
  | .mctp => { s with sec := { s.sec with spdmMctp := x } }
  | .mailbox => { s with sec := { s.sec with spdmMbx := x } }

/-- The identity key signs nothing in BLANK, with slot 0 empty, and in SCRAPPED (R453, R454). -/
def State.signs (s : State) : Bool :=
  s.sec.flash.lcState != 0 && s.sec.flash.lcState != 5 && !s.sec.fuses.idKill

/-- The chain of slot 0: empty in BLANK (R454). -/
def State.slotChain (s : State) : Option (List Byte) := if s.sec.flash.lcState = 0 then none else s.sec.flash.chain

/-- The measurement blocks (R455). -/
def State.measurement (s : State) (i : Nat) : List Byte :=
  let zeros := List.replicate 64 (0 : Byte)
  let f := s.sec.flash
  if i = 1 then bytesOf 2 romVersion
  else if i = 2 then s.sec.digest
  else if i = 3 then bytesOf 1 s.sec.svn ++ bytesOf 1 s.sec.fuses.svnFloor
  else if i = 4 then (match s.sec.cal with
    | some c => sha512 c
    | none => zeros)
  else if i = 5 then bytesOf 1 f.lcState ++ bytesOf 1 (b1 f.lcPending) ++ bytesOf 1 (if f.lcPending then f.lcTarget else 0)
  else if i = 6 then (match f.ownerKey with
    | some k => sha512 k
    | none => zeros)
  else if i = 7 then s.sec.summary
  else []

/-- Some measurement blocks, with their indices. -/
def State.blocks (s : State) (is : List Nat) : List (Nat × List Byte) := is.map fun i => (i, s.measurement i)

/-- A block is raw, or a digest (R455). -/
def measType (i : Nat) : Nat :=
  (if i = 1 then 0x80 else if i = 2 then 0x01 else if i = 3 then 0x87 else if i = 4 then 0x03 else if i = 6 then 0x03 else 0x83)

/-- Measurement blocks in the DMTF measurement specification format: index, specification, size, type, size of the
value, value (R455). -/
def measRecord (bs : List (Nat × List Byte)) : List Byte :=
  (bs.map fun b => bytesOf 1 b.1 ++ bytesOf 1 1 ++ bytesOf 2 (b.2.length + 3) ++ bytesOf 1 (measType b.1) ++
    bytesOf 2 b.2.length ++ b.2).flatten

/-- A signed response: the message and its signature by the identity key. -/
def State.signedResp (s : State) (m : List Byte) : State :=
  (s.respond (.signed m (Config.identitySign s.free m))).draw

def State.spdmVersion (s : State) (t : Transport) : State := (s.setSpdm t .version).respond .version

def State.spdmCapabilities (s : State) (t : Transport) : State :=
  if s.spdm t = .version then (s.setSpdm t .capabilities).respond (.capabilities [.cert, .chal, .measSig]) else s.respond .failed

def State.spdmAlgorithms (s : State) (t : Transport) : State :=
  if s.spdm t = .capabilities then (s.setSpdm t .negotiated).respond (.algorithms .rsassa4096 .sha512 .sha512) else s.respond .failed

def State.spdmDigests (s : State) (t : Transport) : State :=
  if s.spdm t ≠ .negotiated then s.respond .failed
  else match s.slotChain with
    | some c => s.respond (.digest (sha512 c))
    | none => s.respond (.digest [])

def State.spdmCertificate (s : State) (t : Transport) (slot off len : Nat) : State :=
  if s.spdm t ≠ .negotiated ∨ slot ≠ 0 then s.respond .failed
  else match s.slotChain with
    | some c => if c.length ≤ off then s.respond .failed else s.respond (.certificate ((c.drop off).take len) (c.length - off - len))
    | none => s.respond .failed

def State.spdmChallenge (s : State) (t : Transport) (slot : Nat) (nonce : List Byte) : State :=
  if !s.signs then s.respond .unsupported
  else if s.spdm t ≠ .negotiated ∨ slot ≠ 0 then s.respond .failed
  else s.signedResp (Config.messageBytes s.free ++ nonce)

/-- One block, all of them at 0xFF, or their number at 0. -/
def State.spdmMeasurements (s : State) (t : Transport) (idx : Nat) (signed : Bool) (nonce : List Byte) : State :=
  if signed && !s.signs then s.respond .unsupported
  else if s.spdm t ≠ .negotiated ∨ (7 < idx ∧ idx ≠ 0xFF) then s.respond .failed
  else
    let bs := if idx = 0 then [] else if idx = 0xFF then s.blocks [1, 2, 3, 4, 5, 6, 7] else s.blocks [idx]
    if signed then s.signedResp (measRecord bs ++ nonce)
    else s.respond (if idx = 0 then .count 7 else .measurements bs)

/-- A request reaches firmware in service (R454). -/
def State.spdmServed (s : State) (f : State → State) : State := if s.firmwareRuns then f s else s

def execGetVersion (t : Transport) (s : State) : Out := .next (s.spdmServed fun s => s.spdmVersion t)
def execGetCapabilities (t : Transport) (s : State) : Out := .next (s.spdmServed fun s => s.spdmCapabilities t)
def execNegotiateAlgorithms (t : Transport) (s : State) : Out := .next (s.spdmServed fun s => s.spdmAlgorithms t)
def execGetDigests (t : Transport) (s : State) : Out := .next (s.spdmServed fun s => s.spdmDigests t)
def execGetCertificate (t : Transport) (slot off len : Nat) (s : State) : Out :=
  .next (s.spdmServed fun s => s.spdmCertificate t slot off len)
def execChallenge (t : Transport) (slot : Nat) (nonce : List Byte) (s : State) : Out :=
  .next (s.spdmServed fun s => s.spdmChallenge t slot nonce)
def execGetMeasurements (t : Transport) (idx : Nat) (signed : Bool) (nonce : List Byte) (s : State) : Out :=
  .next (s.spdmServed fun s => s.spdmMeasurements t idx signed nonce)

/-- An SPDM request in its own bytes, as SPDM 1.2 lays it out: the request code is byte 1. -/
def State.spdmBytes (s : State) (t : Transport) (r : List Byte) : State :=
  let b := fun (i : Nat) => (r.getD i 0).toNat
  let code := b 1
  if code = 0x84 then s.spdmVersion t
  else if code = 0xE1 then s.spdmCapabilities t
  else if code = 0xE3 then s.spdmAlgorithms t
  else if code = 0x81 then s.spdmDigests t
  else if code = 0x82 then s.spdmCertificate t (b 2 % 16) (b 4 + 256 * b 5) (b 6 + 256 * b 7)
  else if code = 0x83 then s.spdmChallenge t (b 2) ((r.drop 4).take 32)
  else if code = 0xE0 then s.spdmMeasurements t (b 3) ((b 2).testBit 0) ((r.drop 4).take 32)
  else s.respond .unsupported

/-- The bytes of a response as SPDM 1.2 lays them out, to the request with this code. What neither that layout nor this
manual gives is taken from the free bytes of draw `free`. -/
def MgmtResp.spdmBytes (r : MgmtResp) (code : Nat) (free : Nat) : List Byte :=
  let head := fun (c p1 p2 : Nat) => bytesOf 1 0x12 ++ bytesOf 1 c ++ bytesOf 1 p1 ++ bytesOf 1 p2
  let open' := fun (n : Nat) => (List.range n).map fun i => (Config.messageBytes free).getD i 0
  match r with
  | .version => bytesOf 1 0x10 ++ bytesOf 1 0x04 ++ bytesOf 2 0 ++ bytesOf 1 0 ++ bytesOf 1 1 ++ bytesOf 2 0x1200
  | .capabilities caps =>
    let f := fun (c : SpdmCap) (n : Nat) => if caps.contains c then n else 0
    head 0x61 0 0 ++ bytesOf 1 0 ++ open' 1 ++ bytesOf 2 0 ++ bytesOf 4 (f .cert 2 + f .chal 4 + f .measSig 16) ++ open' 8
  | .algorithms _ _ _ =>
    -- One choice each of the bit masks: RSASSA_4096, SHA_512, and SHA_512 of the measurement hashes.
    head 0x63 0 0 ++ bytesOf 2 36 ++ bytesOf 1 1 ++ bytesOf 1 0 ++ bytesOf 4 0x08 ++ bytesOf 4 0x20 ++ bytesOf 4 0x04 ++ bytesOf 16 0
  | .digest b => head 0x01 0 (if b.isEmpty then 0 else 1) ++ b
  | .certificate b rest => head 0x02 0 0 ++ bytesOf 2 b.length ++ bytesOf 2 rest ++ b
  | .count n => head 0x60 n 0 ++ bytesOf 1 0 ++ bytesOf 3 0 ++ open' 32 ++ bytesOf 2 0
  | .measurements bs =>
    head 0x60 0 0 ++ bytesOf 1 bs.length ++ bytesOf 3 (measRecord bs).length ++ measRecord bs ++ open' 32 ++ bytesOf 2 0
  | .signed b sig => (if code = 0x83 then head 0x03 0 1 else head 0x60 0 0) ++ b ++ sig
  | .unsupported => head 0x7F 0x07 code
  | _ => bytesOf 1 0x12 ++ bytesOf 1 0x7F ++ open' 2

end Sys2Proof.Machine
end

