-- ==== Sys2Proof/Machine/Mailbox.lean ====
section
/-! DEFINITION. Mailboxes: acceptance and its checks (R384 to R386), the journal (R399 to R401), completion (R383,
R385) and the commands (R387), with those of recovery mode (R450). -/

namespace Sys2Proof.Machine

/-! ### Statuses (R386) -/

def stOk : Byte := 0x00
def stBusy : Byte := 0x01
def stBadParam : Byte := 0x02
def stDenied : Byte := 0x03
def stUnknown : Byte := 0x04
def stNoResource : Byte := 0x05
def stFailed : Byte := 0x06
def stRefused : Byte := 0x07

/-! ### Arguments (R387) -/

/-- A number in the argument bytes. -/
def Cmd.num (c : Cmd) (o n : Nat) : Nat := ofBytes ((c.args.drop o).take n)

/-- The commands: ARGLEN, where fixed, and the bytes that are not reserved. -/
def cmdTable : List (Nat × Nat × List (Nat × Nat)) :=
  [(0x01, 8, [(0, 8)]), (0x10, 16, [(0, 12)]), (0x11, 8, [(0, 2), (4, 4)]), (0x12, 8, [(0, 2), (4, 4)]),
   (0x13, 4, [(0, 4)]), (0x14, 2, [(0, 2)]), (0x15, 16, [(0, 1), (8, 8)]), (0x16, 16, [(0, 13)])] ++
  [(0x20, 8, [(0, 3), (4, 1)]), (0x21, 8, [(0, 5)]), (0x22, 2, [(0, 2)]), (0x23, 4, [(0, 4)]),
   (0x30, 4, [(0, 1), (2, 2)]), (0x31, 4, [(2, 2)]), (0x32, 4, [(0, 4)]), (0x33, 0, [])] ++
  [(0x34, 8, [(0, 6)]), (0x35, 8, [(0, 6), (8, 2024)]), (0x40, 0, []), (0x41, 8, [(0, 1), (4, 2), (8, 2024)]),
   (0x42, 4, [(0, 2), (4, 2028)])]

/-- Bytes beyond the fixed ones: the length that the command names. -/
def Cmd.extra (c : Cmd) : Nat :=
  if c.code = 0x35 ∨ c.code = 0x41 then c.num 4 2 else if c.code = 0x42 then c.num 0 2 else 0

/-- ARGLEN is the command's length, and no reserved byte is set. -/
def Cmd.shapeOk (c : Cmd) : Bool :=
  match cmdTable.find? fun r => r.1 = c.code with
  | none => false
  | some r =>
    c.arglen == r.2.1 + c.extra && c.args.length == c.arglen &&
      (List.range c.arglen).all fun i => (r.2.2.any fun u => decide (u.1 ≤ i) && decide (i < u.1 + u.2)) || c.args.getD i 0 == 0

/-! ### Life-cycle transitions (R458, R459) -/

/-- Whether a transition is listed. -/
def lcListed (a b : Nat) : Bool :=
  (a == 0 && b == 1) || (a == 1 && b == 2) || (a == 2 && b == 3) || (a == 3 && b == 2) ||
    ((a == 2 || a == 3) && b == 4) || (a == 4 && b == 1) || (decide (1 ≤ a) && decide (a ≤ 4) && b == 5)

/-- KIND of the authorisation: 1 owner, 2 vendor. -/
def Flash.authKind (f : Flash) (b : Nat) : Nat :=
  if b = 1 then 2
  else if b = 5 then if f.ownerKey.isSome then 1 else 2
  else 1

/-- The rules of LC_SET whose breach is BAD_PARAM. -/
def State.lcOk (s : State) (c : Cmd) : Bool :=
  let f := s.sec.flash
  let b := c.num 0 1
  lcListed f.lcState b && c.num 4 2 == (if f.lcState = 1 ∧ b = 2 then 1040 else 528) && c.num 8 1 == f.authKind b &&
    c.num 9 7 == 0 && (f.lcState != 0 || match f.chain with
      | some ch => Config.chainLeaf ch == Config.identityKey
      | none => false)

/-! ### Checks (R386) -/

/-- Ranges and the commands' own rules (R387). -/
def State.paramsOk (s : State) (c : Cmd) : Bool :=
  let n := c.num
  if c.code = 0x10 then n 0 8 % 64 == 0 && decide (1 ≤ n 8 4) && decide (n 8 4 ≤ 1048576)
  else if c.code = 0x11 ∨ c.code = 0x12 then decide (n 0 2 < Config.sheaves)
  else if c.code = 0x13 then decide (1 ≤ n 2 2) && decide (n 2 2 ≤ 510) && decide (n 0 2 + n 2 2 ≤ Config.sheaves)
  else if c.code = 0x14 then decide (n 0 1 < 16) && (n 1 1 == 1 || n 1 1 == 2) && (s.ver (n 0 1)).undecided
  else if c.code = 0x15 then decide (n 0 1 < Config.stepSlots)
  else if c.code = 0x16 then decide (n 12 1 < 32)
  else if c.code = 0x20 then
    decide (1 ≤ n 4 1) && decide (n 4 1 ≤ 15) && decide (2 * n 4 1 * 500 + 2 * (n 4 1 * 63 + 150) ≤ n 0 3)
  else if c.code = 0x21 then
    decide (1 ≤ n 2 2) && decide (n 0 2 + n 2 2 ≤ 744) && decide (n 4 1 ≤ 1)
  else if c.code = 0x30 then decide (n 0 1 ≤ 1) && decide (n 2 2 < if n 0 1 = 0 then Config.engines else Config.cores)
  else if c.code = 0x31 then decide (n 2 2 < Config.cores)
  else if c.code = 0x34 then decide (1 ≤ n 4 2) && decide (n 4 2 ≤ 2040) && decide (n 0 4 + n 4 2 ≤ 16384)
  else if c.code = 0x35 then
    decide (1 ≤ n 4 2) && decide (n 4 2 ≤ 2024) && decide (0x40 ≤ n 0 4) && decide (n 0 4 + n 4 2 ≤ 0x3FC0)
  else if c.code = 0x41 then s.lcOk c
  else if c.code = 0x42 then decide (1 ≤ n 0 2) && decide (n 0 2 ≤ 2028)
  else true

/-- Commands allowed in every life-cycle state (R386), and while PENDING (R457). -/
def alwaysAllowed (code : Nat) : Bool :=
  code == 0x01 || code == 0x13 || code == 0x22 || code == 0x23 || code == 0x34 || code == 0x40 || code == 0x41 || code == 0x42

def State.cmdDenied (s : State) (code : Nat) : Bool :=
  let f := s.sec.flash
  (f.lcPending || !(f.lcState == 2 || f.lcState == 3)) && !alwaysAllowed code

/-- The command needs the device idle or in MAINTENANCE (R298, R387, R391). -/
def State.refusedRunning (s : State) (code : Nat) : Bool :=
  if code = 0x12 then !s.live.isEmpty
  else if code = 0x20 then s.pelEn
  else if code = 0x21 then (s.cores.any fun p => p.2.active) || s.mem.swath.any fun p => p.2.busy
  else if code = 0x32 ∨ code = 0x33 ∨ code = 0x35 then s.sec.flash.lcState != 3 || !s.live.isEmpty
  else false

/-- The five commands that exclude each other (R388). -/
def exclusive (code : Nat) : Bool := code == 0x20 || code == 0x21 || code == 0x32 || code == 0x33 || code == 0x35

/-- Other mailboxes whose accepted command has a property. -/
def State.others' (s : State) (mb : Nat) (p : Nat → Bool) : Nat :=
  ((List.range Config.mailboxes).filter fun i =>
    i != mb && (s.mb i).state == .accepted && match (s.mb i).taken with
      | some c => p c.code
      | none => false).length

/-- A unit is under test, or its test is due (R387, R390). -/
def State.engineUnderTest (s : State) (e : Nat) : Bool :=
  let x := s.eng e
  x.state == .testing || x.state == .quarantined || x.testDue ||
    (x.state != .retired && s.ctl.coreTests.any fun t => t.core == e / 8)

def State.coreUnderTest (s : State) (n : Nat) : Bool := s.ctl.coreTests.any fun t => t.core == n

def State.busy (s : State) (mb : Nat) (c : Cmd) : Bool :=
  if c.code = 0x10 then decide (16 ≤ s.others' mb fun k => k == 0x10)
  else if exclusive c.code then decide (0 < s.others' mb exclusive)
  else if c.code = 0x30 then if c.num 0 1 = 0 then s.engineUnderTest (c.num 2 2) else s.coreUnderTest (c.num 2 2)
  else false

def State.noResource (s : State) (c : Cmd) : Bool :=
  if c.code = 0x30 then
    if c.num 0 1 = 0 then isRetiredEng (s.eng (c.num 2 2)) else (s.core (c.num 2 2)).retired
  else if c.code = 0x31 then (s.core (c.num 2 2)).retired
  else false

/-- The status that the checks give, OK where none applies; last, the fatal state fails most commands (R422). -/
def State.checkCmd (s : State) (mb : Nat) (c : Cmd) : Byte :=
  if (cmdTable.find? fun r => r.1 = c.code).isNone then stUnknown
  else if !c.shapeOk || !s.paramsOk c then stBadParam
  else if s.cmdDenied c.code then stDenied
  else if s.refusedRunning c.code then stRefused
  else if s.busy mb c then stBusy
  else if s.noResource c then stNoResource
  else if s.fault.fatal && (!alwaysAllowed c.code || c.code == 0x41) then stFailed
  else stOk

/-! ### Journal and completion (R383, R400, R401) -/

/-- The journal entry of a command, where it still holds that command. -/
def State.journalDone (s : State) (seq : Nat) (st : Byte) (res : List Byte) : State :=
  match Tab.get none s.ctl.journal (seq % 4096) with
  | some e =>
    if e.seq ≠ seq then s
    else
      let e : JEntry := { e with status := st, done := some s.tb.epoch, res0 := BitVec.ofNat 64 (ofBytes (res.take 8)) }
      { s with ctl := { s.ctl with journal := Tab.set none s.ctl.journal (seq % 4096) (some e) } }
  | none => s

/-- An accepted command is complete: RESULT, RSPLEN, STATUS, the journal, DONE and vector 0 (R383). -/
def State.completeCmd (s : State) (mb : Nat) (st : Byte) (res : List Byte) : State :=
  let b := s.mb mb
  let s := match b.taken with
    | some c => if s.sec.stage = 1 then s else s.journalDone c.seq st res
    | none => s
  let r : Tab Byte := (res.zip (List.range res.length)).foldl (fun (t : Tab Byte) p => Tab.set 0 t p.2 p.1) []
  let s := s.setMb mb { b with state := .done, status := st, rsplen := res.length, result := r, taken := none,
                               ready := none, begun := false }
  if b.irq then s.msix 0 else s

/-- The command of a mailbox as firmware copies it (R384). -/
def Mailbox.copyCmd (b : Mailbox) (seq : Nat) : Cmd :=
  let n := W64.fld b.cmd 31 16
  ⟨W64.fld b.cmd 15 0, n, BitVec.ofNat 32 (W64.fld b.cmd 63 32), (List.range (min n 2032)).map fun k => Tab.get 0 b.args k, seq⟩

/-- Firmware takes a mailbox (R383, R399 to R401). -/
def State.takeCmd (s : State) (mb : Nat) : State :=
  let seq := (s.reg wMBX).toNat
  let b := s.mb mb
  let c := b.copyCmd seq
  let e : JEntry :=
    { seq := seq, mailbox := mb, status := 0xFF, code := c.code, arglen := c.arglen, accept := s.tb.epoch, done := none,
      tag := c.tag, count := BitVec.ofNat 32 (s.regF (wMBX + 0x20) 63 32),
      arg0 := BitVec.ofNat 64 (ofBytes (c.args.take 8)), res0 := 0 }
  let s : State := { s with ctl := { s.ctl with
    journal := Tab.set none s.ctl.journal (seq % 4096) (some e), posted := s.ctl.posted.erase mb } }
  let s := s.setReg wMBX (BitVec.ofNat 64 (seq + 1))
  s.setMb mb { b with state := .accepted, jseq := BitVec.ofNat 32 seq, taken := some c, ready := none, begun := false }

/-! ### Recovery mode (R450) -/

/-- The checks of the boot ROM. -/
def recoveryCheck (c : Cmd) : Byte :=
  if c.code = 0x50 then
    if c.arglen = 8 + c.num 4 2 ∧ c.args.length = c.arglen ∧ 1 ≤ c.num 4 2 ∧ c.num 4 2 ≤ 2024 ∧ c.num 6 2 = 0 ∧
      c.num 0 4 + c.num 4 2 ≤ imageTop then stOk else stBadParam
  else if c.code = 0x51 then if c.arglen = 0 then stOk else stBadParam
  else stUnknown

/-- The boot ROM takes a command of mailbox 0: no journal entry, JSEQ zero. -/
def State.romTake (s : State) : State :=
  let b := s.mb 0
  let c := b.copyCmd 0
  let s : State := { s with ctl := { s.ctl with posted := s.ctl.posted.erase 0 } }
  let s := s.setMb 0 { b with state := .accepted, jseq := 0, taken := some c, ready := none, begun := false }
  if recoveryCheck c = stOk then s else s.completeCmd 0 (recoveryCheck c) []

/-- The accepted command of mailbox 0, in recovery mode. -/
def State.romCmd (s : State) (code : Nat) : Option Cmd :=
  match (s.mb 0).taken with
  | some c => if s.inRecovery && (s.mb 0).state == .accepted && c.code == code then some c else none
  | none => none

/-- REC_WRITE (R450); the flash may report an error. -/
def execRecWrite (flashError : Bool) (s : State) : Out :=
  match s.romCmd 0x50 with
  | none => .next s
  | some c =>
    if flashError then .next (s.completeCmd 0 stFailed [])
    else .next ((s.writeImage (c.num 0 4) ((c.args.drop 8).take (c.num 4 2))).completeCmd 0 stOk [])

/-- REC_COMMIT (R450): the image is checked by R444. -/
def execRecCommit (flashError : Bool) (s : State) : Out :=
  match s.romCmd 0x51 with
  | none => .next s
  | some _ =>
    let r := if flashError || s.imageFault == 2 then 7 else s.imageFault
    if r = 0 then .next (({ s with sec := { s.sec with imageDue := true } } : State).completeCmd 0 stOk (bytesOf 1 0))
    else .next (s.completeCmd 0 stFailed (bytesOf 1 r))

/-! ### Acceptance -/

/-- R384 to R386: firmware takes the oldest POSTED command, journals it and checks it. -/
def execMailboxAccept (s : State) : Out :=
  if s.inRecovery then .next (if s.ctl.posted.contains 0 then s.romTake else s)
  else if s.sec.stage ≠ 3 ∨ s.ctl.stalled then .next s
  else match s.ctl.posted with
    | [] => .next s
    | mb :: _ =>
      let s := s.takeCmd mb
      match (s.mb mb).taken with
      | none => .next s
      | some c => .next (if s.checkCmd mb c = stOk then s else s.completeCmd mb (s.checkCmd mb c) [])

/-- A long command has its result: COMMAND_COMPLETE writes it. -/
def State.setReady (s : State) (mb : Nat) (st : Byte) (res : List Byte) : State :=
  s.setMb mb { s.mb mb with ready := some (st, res), begun := true }

def State.serving (s : State) : Bool := s.sec.stage == 3 && !s.ctl.stalled

/-- After a link failure firmware completes the command of a mailbox with FAILED (R422). -/
def State.failsFatal (s : State) (mb : Nat) : Bool :=
  s.fault.fatal && (s.mb mb).taken.any fun c => !alwaysAllowed c.code || c.code == 0x41

/-- R383: a long command has finished, or a link failure ends it (R422). -/
def execCommandComplete (mb : Nat) (s : State) : Out :=
  if !s.serving || (s.mb mb).state != .accepted then .next s
  else if s.failsFatal mb then .next (s.completeCmd mb stFailed [])
  else match (s.mb mb).ready with
    | some r => .next (s.completeCmd mb r.1 r.2)
    | none => .next s

/-! ### Performing -/

/-- The accepted command of a mailbox is performed by its own step, once; a check that fails now decides. -/
def State.perform' (s : State) (mb code : Nat) (f : Cmd → State → State) : State :=
  match (s.mb mb).taken with
  | none => s
  | some c =>
    if !s.serving || (s.mb mb).state != .accepted || c.code != code || (s.mb mb).begun then s
    else if s.checkCmd mb c = stOk then f c s
    else s.completeCmd mb (s.checkCmd mb c) []

/-- An Immediate command: its effect and its result. -/
def State.immediate (s : State) (mb code : Nat) (f : Cmd → State → State × List Byte) : State :=
  s.perform' mb code fun c s => ((f c s).1).completeCmd mb stOk (f c s).2

/-- A mask of mailboxes. -/
def State.mbMask (s : State) (p : Mailbox → Bool) : Nat :=
  (List.range Config.mailboxes).foldl (fun m i => if p (s.mb i) then m + 2 ^ i else m) 0

/-- ATTACH. -/
def State.attachTo (s : State) (c : Cmd) : State × List Byte :=
  let n := (s.regF (wMBX + 0x20) 63 32 + 1) % 2 ^ 32
  let s := (s.setReg (wMBX + 0x28) (BitVec.ofNat 64 (c.num 0 8))).setReg (wMBX + 0x20) (BitVec.ofNat 64 (n * 2 ^ 32))
  (s, bytesOf 8 (s.reg wMBX).toNat ++ bytesOf 4 (s.regF (wMBX + 0x08) 31 0) ++ bytesOf 4 (s.regF (wMBX + 0x10) 31 0) ++
    bytesOf 4 n ++ bytesOf 4 s.sec.flash.lcState ++ bytesOf 4 (s.mbMask fun b => b.state != .free) ++
    bytesOf 4 (s.mbMask fun b => b.state == .done) ++ bytesOf 8 s.tb.epoch.toNat)

def execAttach (mb : Nat) (s : State) : Out := .next (s.immediate mb 0x01 fun c s => s.attachTo c)

/-- A list among those that wait to be read, in the order of acceptance (R389). -/
def insertList (j : ListJob) : List ListJob → List ListJob
  | [] => [j]
  | k :: t => if j.jseq < k.jseq then j :: k :: t else k :: insertList j t

/-- A SUBMIT accepted before a list has not been taken up yet: the list waits for it (R389). -/
def State.submitBefore (s : State) (jseq : Nat) : Bool :=
  (List.range Config.mailboxes).any fun i =>
    (s.mb i).state == .accepted && !(s.mb i).begun && (s.mb i).taken.any fun c => c.code == 0x10 && decide (c.seq < jseq)

/-- SUBMIT: the list is read after those accepted before (R389). -/
def execSubmit (mb : Nat) (s : State) : Out :=
  .next (s.perform' mb 0x10 fun c s =>
    let j : ListJob :=
      { mb := mb, addr := c.num 0 8, count := c.num 8 4, next := 0, jseq := c.seq, seen := false, hold := .none, waited := 0,
        stopped := false }
    ({ s with ctl := { s.ctl with lists := insertList j s.ctl.lists } } : State).setMb mb { s.mb mb with begun := true })

/-- SHEAF_ADD. -/
def execSheafAdd (mb : Nat) (s : State) : Out :=
  .next (s.immediate mb 0x11 fun c s =>
    (s.signalSheaf (c.num 0 2) (c.num 4 4), bytesOf 4 ((s.addSheaf (c.num 0 2) (c.num 4 4)).sheaf (c.num 0 2)).toNat))

/-- SHEAF_SET; guards see the new value (R241). -/
def execSheafSet (mb : Nat) (s : State) : Out :=
  .next (s.immediate mb 0x12 fun c s =>
    (State.guards Config.versions (s.setSheaf (c.num 0 2) (BitVec.ofNat 32 (c.num 4 4))), bytesOf 4 (s.sheaf (c.num 0 2)).toNat))

/-- SHEAF_READ. -/
def execSheafRead (mb : Nat) (s : State) : Out :=
  .next (s.immediate mb 0x13 fun c s =>
    (s, (List.range (c.num 2 2)).foldl (fun l i => l ++ bytesOf 4 (s.sheaf (c.num 0 2 + i)).toNat) []))

/-- VERDICT (R240). -/
def execVerdict (mb : Nat) (s : State) : Out :=
  .next (s.immediate mb 0x14 fun c s =>
    let v := c.num 0 1
    let s := if c.num 1 1 = 1 then State.guards Config.versions (s.commit v 0) else s.discard v 0 false
    (s, bytesOf 1 (s.ver v).last.toNat))

/-- STEP_WRITE (R363). -/
def execStepWrite (mb : Nat) (s : State) : Out :=
  .next (s.immediate mb 0x15 fun c s =>
    (s.setStepSlot (c.num 0 1) { s.stepSlot (c.num 0 1) with pending := some (BitVec.ofNat 64 (c.num 8 8)) }, []))

/-- CORE_MSG: cause 0x21 becomes pending on each core named, merged by R108. -/
def State.message (s : State) (mask m : Nat) : State :=
  s.mapCores fun n c =>
    if mask.testBit n then
      { c with pend := { c.pend with msg := true, msgMask := c.pend.msgMask ||| BitVec.ofNat 64 (2 ^ m) } }
    else c

def execCoreMsg (mb : Nat) (s : State) : Out :=
  .next (s.immediate mb 0x16 fun c s => (s.message (c.num 0 12) (c.num 12 1), []))

/-- FABRIC_CFG (R349). -/
def execFabricCfg (mb : Nat) (s : State) : Out :=
  .next (s.immediate mb 0x20 fun c s =>
    let s := s.setReg (wPEL + 0x10) (W64.setFld (s.reg (wPEL + 0x10)) 23 0 (c.num 0 3))
    (s.setReg (wPEL + 0x08) (W64.setFld (s.reg (wPEL + 0x08)) 11 8 (c.num 4 1)), []))

/-- Whether an address lies in one of a run of pairs. -/
def inPairs (first count a : Nat) : Bool := decide (first ≤ a >>> 31) && decide (a >>> 31 < first + count)

/-- Every line of the pairs leaves every cache and is zero-marked, and the pairs take their mode (R298). -/
def State.setAffinity (s : State) (first count : Nat) (affine : Bool) : State :=
  let hit := inPairs first count
  let keep := fun (l : Nat) => !hit (l * 128)
  let m : Mem := { s.mem with
    bytes := s.mem.bytes.filter fun p => !hit p.1
    poison := s.mem.poison.filter fun p => !hit (p.1 * 32)
    written := s.mem.written.filter fun p => keep p.1
    llc := s.mem.llc.filter fun p => keep p.1
    wbs := s.mem.wbs.filter fun p => keep p.1 }
  let s : State := { s with
    mem := m
    cores := (s.cores.map fun (p : Nat × Core) => (p.1, { p.2 with l1 := p.2.l1.filter fun q => keep q.1 })).filter
      fun p => p.2 != Core.reset
    versions := (s.versions.map fun (p : Nat × Version) => (p.1, { p.2 with lines := p.2.lines.filter fun q => keep q.1 })).filter
      fun p => p.2 != Version.reset }
  (List.range count).foldl (fun (s : State) i =>
    let j := first + i
    let a := wMEM + 0x100 + 8 * (j / 64)
    s.setReg a (W64.setFld (s.reg a) (j % 64) (j % 64) (b1 affine))) s

/-- MEM_AFFINITY: done in one step, reported by COMMAND_COMPLETE. -/
def execMemAffinity (mb : Nat) (s : State) : Out :=
  .next (s.perform' mb 0x21 fun c s => (s.setAffinity (c.num 0 2) (c.num 2 2) (c.num 4 1 == 1)).setReady mb stOk [])

/-- RETIRED_LIST. -/
def execRetiredList (mb : Nat) (s : State) : Out :=
  .next (s.immediate mb 0x22 fun c s =>
    let l := (s.mem.retired.drop (c.num 0 2)).take 254
    (s, bytesOf 2 s.mem.retired.length ++ bytesOf 2 l.length ++ bytesOf 4 0 ++
      l.foldl (fun r f => r ++ bytesOf 8 (f * 4096)) []))

/-- FAULT_READ (R433): entries held, oldest first. -/
def execFaultRead (mb : Nat) (s : State) : Out :=
  .next (s.immediate mb 0x23 fun c s =>
    let l := (s.fault.entries.drop (c.num 0 4)).take 63
    (s, bytesOf 4 s.fault.held ++ bytesOf 4 l.length ++ l.foldl (fun r e => r ++ e.bytes) []))

/-- A core that runs no task stands at a task boundary already (R390). -/
def State.boundaryNow (s : State) (n : Nat) : State := if (s.core n).active then s else s.taskBoundary n

/-- SELFTEST (R390): the test is due at the next task boundary of the core, or of the engine's owner. -/
def execSelftest (mb : Nat) (s : State) : Out :=
  .next (s.perform' mb 0x30 fun c s =>
    let u := c.num 2 2
    let s := s.setMb mb { s.mb mb with begun := true }
    if c.num 0 1 = 0 then
      (s.updEng u fun e => { e with testDue := true, why := .command mb }).boundaryNow (u / 8)
    else
      let t : CoreTest := ⟨u, some mb, false⟩
      (({ s with ctl := { s.ctl with coreTests := s.ctl.coreTests ++ [t] } } : State).updCore u fun k =>
        { k with noTake := true }).boundaryNow u)

/-- CORE_RESET (R439); of a core in per-core reset, which is held, it has no further effect (R440). -/
def execCoreReset (mb : Nat) (s : State) : Out :=
  .next (s.immediate mb 0x31 fun c s =>
    (s.updCore (c.num 2 2) fun k => if k.mode = .held then k else { k with resetting := true }, []))

/-- MEM_RETRAIN (R391): of the named stacks, those that failed. -/
def execMemRetrain (mb : Nat) (failed : W32) (s : State) : Out :=
  .next (s.perform' mb 0x32 fun c s =>
    let f := failed &&& BitVec.ofNat 32 (c.num 0 4)
    s.setReady mb (if f = 0 then stOk else stFailed) (bytesOf 4 f.toNat))

/-! ### Calibration (R462 to R464) -/

/-- The set with a new write count and digest, over bytes 0x0040 to 0x3FBF. -/
def calSet (count : Nat) (body : List Byte) : List Byte :=
  let l := bytesOf 4 0x4C43414C ++ bytesOf 4 1 ++ bytesOf 4 16384 ++ bytesOf 4 count ++ List.replicate 48 0 ++
    (body ++ List.replicate 16256 0).take 16256
  l ++ sha512 l

/-- Count of writes of the set in flash, 0 where none is valid. -/
def Flash.calCount (f : Flash) : Nat :=
  match f.cal with
  | some c => ofBytes ((c.drop 12).take 4)
  | none => 0

/-- Bytes 0x0040 to 0x3FBF of the set in flash, zeros where none is valid (R464). -/
def Flash.calBody (f : Flash) : List Byte :=
  match f.cal with
  | some c => (c.drop 64).take 16256
  | none => List.replicate 16256 0

/-- A new set becomes current (R463). -/
def State.writeCal (s : State) (body : List Byte) : State :=
  let f := s.sec.flash
  let x : Flash := { f with cal := some (calSet (f.calCount + 1) body) }
  { s with sec := { s.sec with flash := x, calChanged := true } }

/-- CALIBRATE (R391, R463): the measured values, unless a block failed. -/
def execCalibrate (mb : Nat) (failed : W32) (measured : List Byte) (s : State) : Out :=
  .next (s.perform' mb 0x33 fun _ s =>
    if failed = 0 then (s.writeCal measured).setReady mb stOk (bytesOf 4 0)
    else s.setReady mb stFailed (bytesOf 4 failed.toNat))

/-- CAL_READ (R463); the current block holds no stated bytes where no set is valid. -/
def execCalRead (mb : Nat) (s : State) : Out :=
  .next (s.immediate mb 0x34 fun c s =>
    match s.sec.flash.cal with
    | some l => (s, (l.drop (c.num 0 4)).take (c.num 4 2))
    | none => (s.draw, (List.range (c.num 4 2)).map fun i =>
        BitVec.ofNat 8 ((Config.freeValue s.free).toNat >>> ((c.num 0 4 + i) % 8 * 8))))

/-- CAL_WRITE (R391, R463). -/
def execCalWrite (mb : Nat) (s : State) : Out :=
  .next (s.perform' mb 0x35 fun c s =>
    let o := c.num 0 4 - 64
    let b := s.sec.flash.calBody
    let d := (c.args.drop 8).take (c.num 4 2)
    (s.writeCal (b.take o ++ d ++ b.drop (o + d.length))).setReady mb stOk [])

/-! ### Resets and SPDM -/

/-- A device reset, and the boot that follows (R393, R446). -/
def State.deviceReset (s : State) : State := (s.resetWhole .device).startBoot

/-- DEVICE_RESET: journaled at acceptance, it writes no result (R393). -/
def execDeviceReset (mb : Nat) (s : State) : Out := .next (s.perform' mb 0x40 fun _ s => s.deviceReset)

/-- What an LC_SET signature covers (R459). -/
def State.lcMessage (s : State) (c : Cmd) : List Byte :=
  bytesOf 8 s.sec.fuses.serial.toNat ++ bytesOf 1 s.sec.flash.lcState ++ bytesOf 1 (c.num 0 1) ++ (c.args.drop 16).take 8 ++
    (c.args.drop 536).take 512

/-- The key that an LC_SET signature is checked against (R459). -/
def State.lcKey (s : State) (c : Cmd) : List Byte :=
  if c.num 8 1 = 2 then s.sec.key
  else if c.num 4 2 = 1040 then (c.args.drop 536).take 512
  else match s.sec.flash.ownerKey with
    | some k => k
    | none => []

/-- SEC_NONCE takes a new value (R459). -/
def State.newNonce (s : State) : State :=
  ({ s with sec := { s.sec with nonce := Config.freeValue s.free } } : State).draw

/-- LC_SET (R459, R460): a wrong nonce or signature fails; otherwise PENDING, TARGET and a device reset. -/
def execLcSet (mb : Nat) (s : State) : Out :=
  .next (s.perform' mb 0x41 fun c s =>
    if c.num 16 8 ≠ s.sec.nonce.toNat then (s.newNonce).completeCmd mb stFailed (bytesOf 1 1)
    else if !pssVerify (s.lcKey c) ((c.args.drop 24).take 512) (s.lcMessage c) then
      (s.newNonce).completeCmd mb stFailed (bytesOf 1 2)
    else
      let f : Flash := { s.sec.flash with
        lcPending := true, lcTarget := c.num 0 1,
        newKey := if c.num 4 2 = 1040 then some ((c.args.drop 536).take 512) else none }
      ({ s with sec := { s.sec with flash := f } } : State).deviceReset)

/-- SPDM (R387, R454): the response; the management port's stays as it is (R456). -/
def execSpdm (mb : Nat) (s : State) : Out :=
  .next (s.immediate mb 0x42 fun c s =>
    let req := (c.args.drop 4).take (c.num 0 2)
    let t := s.spdmBytes .mailbox req
    let r := (t.fault.resp.spdmBytes (req.getD 1 0).toNat t.free).take 2032
    ((t.respond s.fault.resp).draw, bytesOf 2 r.length ++ bytesOf 6 0 ++ r))

/-- R450, R451: 1 ms after an image was accepted in recovery mode, it is booted as after a device reset. -/
def execDeferredImageBoot (s : State) : Out := .next (if s.inRecovery && s.sec.imageDue then s.deviceReset else s)

end Sys2Proof.Machine
end

