-- ==== Sys2Proof/Machine/Access.lean ====
section
/-! DEFINITION. Accesses of a core to memory: translation (R250 to R255), misses and stream prefetch (R256,
R270 to R277), what a load sees (R234, R239, R267), stores into the store buffer (R257), their drain
(R236 to R238, R405), atomics (R91, R345) and remote accesses (R332, R351). -/

namespace Sys2Proof.Machine

/-! ### Causes -/

/-- Place of a cause in the order of R107, with 0x30 and 0x31 after 0x07 and 0x32 after 0x09. -/
def causeRank (c : Nat) : Nat :=
  if c = 0x01 then 0 else if c = 0x02 then 1 else if c = 0x0D then 2 else if c = 0x0F then 3 else if c = 0x0E then 4
  else if c = 0x07 then 5 else if c = 0x30 then 6 else if c = 0x31 then 7 else if c = 0x05 then 8
  else if c = 0x03 then 9 else if c = 0x04 then 9 else if c = 0x0A then 10 else if c = 0x09 then 11
  else if c = 0x32 then 12 else if c = 0x08 then 13 else 14

/-- The first of a list of causes in that order; the earlier one on a tie. -/
def firstCause : List (Nat × W64) → Option (Nat × W64)
  | [] => none
  | c :: t =>
    match firstCause t with
    | none => some c
    | some d => if causeRank d.1 < causeRank c.1 then some d else some c

/-! ### Translation -/

/-- What an access does (R250, R253). -/
inductive Use where
  | fetch | load | store | atomic
deriving DecidableEq, Repr

/-- The page fault of an access (R250). -/
def Use.fault : Use → Nat
  | .fetch => 0x01
  | .load => 0x03
  | .store => 0x04
  | .atomic => 0x04

/-- The outcome of a table walk (R251, R253). -/
inductive Walk where
  | leaf (e : W64) (level : Nat)
  | fault
  | poison (sector : Nat)
deriving DecidableEq, Repr

/-- Whether a leaf's own fields are allowed at its level (R253). -/
def leafOk (e : W64) (level : Nat) : Bool :=
  let n := e.toNat
  level != 0 && (level != 1 || fld n 29 12 == 0) && (level != 2 || fld n 20 12 == 0) &&
    !(n.testBit 3 && !n.testBit 2) && !(!n.testBit 47 && fld n 63 48 != 0)

/-- Walk the tables, each entry read through its home slice (R251 to R253): `k` levels are left. -/
def State.walk (s : State) (va : Nat) : Nat → Nat → State × Walk
  | 0, _ => (s, .fault)
  | k + 1, frame =>
    let level := 3 - k
    let a := frame * 4096 + 8 * ((va >>> (12 + 9 * k)) % 512)
    if !visible a 8 then (s, .fault)
    else
      let s := s.sliceRead (a / 128) (BitVec.ofNat 4 (2 ^ (a / 32 % 4)))
      if s.poisoned (a / 32) then (s, .poison (a / 32))
      else
        let e := s.dword a
        let n := e.toNat
        if !n.testBit 0 || fld n 8 6 != 0 then (s, .fault)
        else if n.testBit 1 then (s, if leafOk e level then .leaf e level else .fault)
        else if fld n 63 47 != 0 || fld n 11 9 != 0 || fld n 5 2 != 0 then (s, .fault)
        else State.walk s va k (fld n 46 12)

/-- Lowest address bit that a leaf at a level does not translate. -/
def pageShift (level : Nat) : Nat := 12 + 9 * (3 - level)

def TlbEntry.covers (t : TlbEntry) (va : Nat) : Bool :=
  (t.vpn <<< 12) >>> pageShift t.level == va >>> pageShift t.level

/-- The translation that a core holds for an address. -/
def Core.tlbFor (c : Core) (va : Nat) : Option TlbEntry := c.tlb.find? fun t => t.covers va

/-- Whether a leaf allows an access of a level (R253). -/
def leafAllows (e : W64) (use : Use) (pl : Nat) : Bool :=
  let n := e.toNat
  let r := n.testBit 2
  let w := n.testBit 3
  let x := n.testBit 4
  let u := n.testBit 5
  (match use with
    | .fetch => x
    | .load => r
    | .store => w
    | .atomic => r && w) && !(pl == 0 && !u) && !(use == .fetch && pl == 1 && u)

/-- The address that a leaf gives: local physical, or global (R252). -/
def leafAddr (e : W64) (level va : Nat) : Nat :=
  let n := e.toNat
  let off := va % 2 ^ pageShift level
  let loc := (fld n 46 12 <<< 12) + off
  if n.testBit 47 then 2 ^ 63 + (fld n 63 48 <<< 47) + loc else loc

/-- The outcome of a translation: physical or global address, HINT and NOPF; or a cause. -/
inductive Tr where
  | ok (pa hint : Nat) (nopf : Bool)
  | fault (cause : Nat) (tval : W64)
deriving DecidableEq, Repr

/-- What a leaf gives an access (R253, R92, R380). -/
def leafResult (e : W64) (level : Nat) (use : Use) (pl va : Nat) : Tr :=
  let pa := leafAddr e level va
  let remote := e.toNat.testBit 47
  if !remote && (isWindow pa 1 || isSram pa 1) then .fault 0x0D (BitVec.ofNat 64 va)
  else if !remote && !visible pa 1 then .fault use.fault (BitVec.ofNat 64 va)
  else if !leafAllows e use pl then .fault use.fault (BitVec.ofNat 64 va)
  else .ok pa (fld e.toNat 11 10) (e.toNat.testBit 9)

/-- A core whose miss registers are all taken fills its oldest miss for one that is made in one step: a walker's read, or
a further line of a vector or tile load (R270). -/
def State.freeRegister (s : State) (n : Nat) : State :=
  let c := s.core n
  if c.l1Miss.length < c.missMax then s
  else match c.oldestMiss with
    | some m => s.fillMiss n m
    | none => s

/-- Translate an address of core `n` at a level (R250 to R255). -/
def State.translate (s : State) (n : Nat) (use : Use) (pl va : Nat) : State × Tr :=
  let c := s.core n
  let ptb := c.cr nPTB
  if pl = 3 || !ptb.toNat.testBit 0 then (s, .ok va 0 false)
  else if va ≥ 2 ^ 48 then (s, .fault use.fault (BitVec.ofNat 64 va))
  else
    let held := if Config.useCached s.free (va / 4096) then c.tlbFor va else none
    match held with
    | some t => (s, leafResult t.leaf t.level use pl va)
    | none =>
      match ((s.countCore n 0x55 1).freeRegister n).walk va 4 (W64.fld ptb 46 12) with
      | (s, .fault) => (s, .fault use.fault (BitVec.ofNat 64 va))
      | (s, .poison sec) => (s, .fault 0x09 (BitVec.ofNat 64 (sec * 32)))
      | (s, .leaf e level) =>
        let t : TlbEntry := ⟨va / 4096, e, level⟩
        (s.updCore n fun c => { c with tlb := t :: c.tlb.filter fun t => !t.covers va }, leafResult e level use pl va)

/-- Where an access ends. -/
inductive Place where
  | mem (pa : Nat)
  | win (off : Nat)
  | sram (off : Nat)
  | away (ga : Nat)
  | refused (ga : Nat)
deriving DecidableEq, Repr

/-- Where a physical or global address lies, or the cause it raises (R250, R92, R332, R380). -/
def State.locate (s : State) (use : Use) (pl va pa : Nat) : Place ⊕ (Nat × W64) :=
  let loc := fun (p : Nat) =>
    if visible p 1 then Sum.inl (.mem p)
    else if isWindow p 1 then if pl = 3 then .inl (.win (p - winBase)) else .inr (0x0D, BitVec.ofNat 64 va)
    else if isSram p 1 then if pl = 3 then .inl (.sram (p - sramBase)) else .inr (0x0D, BitVec.ofNat 64 va)
    else .inr (use.fault, BitVec.ofNat 64 va)
  if isGlobal pa then
    match s.served pa with
    | .refused => .inl (.refused pa)
    | .here p => loc p
    | .away _ => .inl (.away pa)
  else loc pa

/-- A part of an access within one sector. -/
structure Piece where
  va : Nat
  place : Place
  len : Nat
  hint : Nat
  nopf : Bool
deriving DecidableEq, Repr

/-- Cut `len` bytes from an address at multiples of `k`; addresses wrap at 2^64. -/
def cutAt (k : Nat) : Nat → Nat → Nat → List (Nat × Nat)
  | 0, _, _ => []
  | n + 1, a, len =>
    if len = 0 then []
    else
      let m := min len (k - a % k)
      (a, m) :: cutAt k n ((a + m) % 2 ^ 64) (len - m)

/-- Translate a span page by page and place it sector by sector: the pieces, and the causes met. -/
def State.span (s : State) (n : Nat) (use : Use) (pl va len : Nat) : State × List Piece × List (Nat × W64) :=
  (cutAt 4096 (len / 4096 + 2) va len).foldl (fun (r : State × List Piece × List (Nat × W64)) (pg : Nat × Nat) =>
    match r.1.translate n use pl pg.1 with
    | (s, .fault c t) => (s, r.2.1, r.2.2 ++ [(c, t)])
    | (s, .ok pa hint nopf) =>
      (cutAt 32 (pg.2 / 32 + 2) pg.1 pg.2).foldl (fun (r : State × List Piece × List (Nat × W64)) (p : Nat × Nat) =>
        match r.1.locate use pl p.1 (pa + (p.1 - pg.1)) with
        | .inl pl => (r.1, r.2.1 ++ [⟨p.1, pl, p.2, hint, nopf⟩], r.2.2)
        | .inr c => (r.1, r.2.1, r.2.2 ++ [c])) (s, r.2.1, r.2.2)) (s, [], [])

/-! ### What a load sees -/

/-- A byte with the poison that taking it consumes. -/
abbrev PByte := Byte × Bool

/-- The effect of one buffered store on a byte of a sector at `a`. -/
def SbEntry.see (e : SbEntry) (a : Nat) (b : PByte) : PByte :=
  let at_ := e.addr.toNat
  if e.dead then if at_ ≤ a ∧ a < at_ + 128 then (0, false) else b
  else if a / 32 ≠ at_ / 32 then b
  else
    let full := e.mask == BitVec.allOnes 32 && e.keep == 0
    let p := e.poison || (b.2 && !full)
    if e.mask.toNat.testBit (a % 32) then (e.over (a % 32) b.1, p) else (b.1, p)

/-- Stores of a core that have not reached their destination, oldest first. -/
def Core.buffered (c : Core) : List SbEntry := c.sb ++ c.heldSt.map fun h => h.entry

/-- A committed byte as core `n` sees it: under its own committed stores on their way (R267). -/
def State.seeCommitted (s : State) (n a : Nat) : PByte :=
  let c := s.core n
  let l1 := c.l1Line (a / 128)
  let bad := s.poisoned (a / 32) || (l1.valid &&& l1.poison).toNat.testBit (a / 32 % 4)
  (c.buffered.filter fun e => e.ver.isNone).foldl (fun b e => e.see a b) (s.byte a, bad)

/-- A local byte as core `n` sees it: its version's where the version has stored it (R234). -/
def State.seeByte (s : State) (n a : Nat) : PByte :=
  let c := s.core n
  match c.heldVer with
  | none => s.seeCommitted n a
  | some v =>
    -- Once the version is discarded, its loads see committed bytes only (R245).
    if (s.ver v).state = .discarding then s.seeCommitted n a else
    let h := Tab.get HeldLine.reset (s.ver v).lines (a / 128)
    let base : PByte :=
      let o := s.seeCommitted n a
      let k := byteAt h.keep (a % 128)
      if h.mask.toNat.testBit (a % 128) then
        ((byteAt h.data (a % 128) &&& ~~~k) ||| (o.1 &&& k), h.poison.toNat.testBit (a / 32 % 4) || (k != 0 && o.2))
      else o
    (c.buffered.filter fun e => e.ver == some v).foldl (fun b e =>
      let at_ := e.addr.toNat
      if e.dead then if at_ ≤ a ∧ a < at_ + 128 then (0, false) else b
      else if a / 32 = at_ / 32 ∧ e.mask.toNat.testBit (a % 32) then (e.over (a % 32) b.1, e.poison || (e.keep != 0 && b.2)) else b) base

/-- Bytes of the machine-stack SRAM. -/
def Core.sramByte (c : Core) (o : Nat) : Byte := Tab.get 0 c.sram o
def Core.setSram (c : Core) (o : Nat) (bs : List Byte) : Core :=
  { c with sram := (bs.foldl (fun (r : Tab Byte × Nat) b => (Tab.set 0 r.1 r.2 b, r.2 + 1)) (c.sram, o)).1 }

/-! ### Remote sectors -/

/-- What a remote sector gives a core now: its bytes and poison, a failure, or nothing yet. -/
inductive RSector where
  | ready (d : Sector) (poison : Bool)
  | failed
  | absent
deriving DecidableEq, Repr

def State.remoteSector (s : State) (n sec : Nat) : RSector :=
  let a : W64 := BitVec.ofNat 64 (sec * 32)
  match (s.core n).remote.findSome? fun d => match d with
    | .data x bs p => if x = a then some (RSector.ready bs p) else none
    | .failed x => if x = a then some RSector.failed else none
    | .old _ _ _ => none
    | .stored _ _ => none with
  | some r => r
  | none =>
    let x := Tab.get RLine.reset s.mem.rlines (sec / 4)
    if s.cacheRemote && x.valid.toNat.testBit (sec % 4) then
      .ready (x.data.extractLsb' (256 * (sec % 4)) 256) (x.poison.toNat.testBit (sec % 4))
    else .absent

/-- Whether core `n` has an RD outstanding for a sector. -/
def State.rdOut (s : State) (n sec : Nat) : Bool :=
  s.pel.trackers.any fun t => match t.2 with
    | some t => t.origin == .load n && t.packet.kind == 1 && gLocal (sec * 32) / 128 * 128 == t.packet.addr.toNat &&
        t.packet.dst.toNat == gDevice (sec * 32) && t.packet.aux.toNat.testBit (sec % 4)
    | none => false

/-- Ask for the absent sectors among some: one RD for each (R336, R355). -/
def State.askRemote (s : State) (n : Nat) (secs : List Nat) : State :=
  secs.foldl (fun s sec =>
    if s.remoteSector n sec != .absent || s.rdOut n sec then s
    else
      let ga := sec * 32
      match s.request (gDevice ga) (fun t =>
          s.packet 1 (gDevice ga) t 0 (2 ^ (sec % 4)) (gLocal ga / 128 * 128) 0 0 0 []) (.load n) [] none with
      | some s => s
      | none => s) s

/-! ### Misses and prefetch (R270 to R277) -/

/-- A written L1_CTRL takes effect once the core's older stores, misses and prefetches have completed (R274). -/
def State.settleL1 (s : State) (n : Nat) : State :=
  match (s.core n).l1Pend with
  | some (v, ls) =>
    let c := s.core n
    let out := ls.any fun l => (c.l1Miss.any fun m => m.line == l) || c.pfWait.any fun w => w.line == l
    if out || s.storesOut n then s
    else s.updCore n fun c =>
      { c.setCr nL1CTRL (BitVec.ofNat 64 (max 1 (W64.fld v 11 8) * 256 + W64.fld v 5 4 * 16 + W64.fld (c.cr nL1CTRL) 0 0)) with
        l1Pend := none }
  | none => s

/-- A stream moves on with an access to a line (R275): the new stream first, at most 16. -/
def streamStep (ss : List Stream) (line : Nat) : List Stream :=
  let next := fun (t : Stream) => decide (t.count ≥ 2) && ((line : Int) - t.last == t.stride)
  let near := fun (t : Stream) => t.count == 1 && decide (1 ≤ ((line : Int) - t.last).natAbs) &&
    decide (((line : Int) - t.last).natAbs ≤ 32)
  match ss.find? next with
  | some t => { t with last := line, count := t.count + 1 } :: ss.filter fun x => x != t
  | none =>
    match ss.find? near with
    | some t => { t with last := line, stride := (line : Int) - t.last, count := 2, asked := line } :: ss.filter fun x => x != t
    | none => (⟨line, 0, 1, line⟩ :: ss).take 16

/-- Where a stream prefetch goes: nowhere into another device (R276). -/
inductive PfDest where
  | line (a hint : Nat)
  | dropped
  | away
deriving DecidableEq, Repr

/-- The destination of a stream prefetch to `tv` that an access to a piece at `pa` brings (R276). -/
def Core.pfDest (c : Core) (pl : Nat) (p : Piece) (pa tv : Nat) : PfDest :=
  if tv / 4096 = p.va / 4096 then
    if isGlobal pa then .away
    else if p.nopf then .dropped else .line (pa / 4096 * 4096 + tv % 4096) p.hint
  else if pl = 3 || !(c.cr nPTB).toNat.testBit 0 then .dropped
  else match c.tlbFor tv with
    | none => .dropped
    | some e =>
      let a := leafAddr e.leaf e.level tv
      if e.leaf.toNat.testBit 9 || e.leaf.toNat.testBit 47 || !leafAllows e.leaf .load pl || !visible a 1 then .dropped
      else .line a (fld e.leaf.toNat 11 10)

/-- The stream prefetch that a demand miss brings (R275 to R277). -/
def State.prefetchFor (s : State) (n pl : Nat) (p : Piece) (pa : Nat) : State :=
  let s := s.settleL1 n
  let c := s.core n
  let ctl := (c.cr nL1CTRL).toNat
  if !ctl.testBit 4 || !ctl.testBit 0 then s
  else
    let line := p.va / 128
    let ss := streamStep c.streams line
    let s := s.setCore n { c with streams := ss }
    match ss with
    | [] => s
    | t :: rest =>
      let target := (line : Int) + t.stride * (fld ctl 11 8 : Nat)
      let ahead := if t.stride > 0 then decide (target > t.asked) else decide (target < t.asked)
      if t.count < 3 || t.last ≠ line || !ahead || target < 0 then s
      else
        let tv := target.toNat * 128
        let s := s.setCore n { s.core n with streams := { t with asked := target } :: rest }
        let translated := pl ≠ 3 && (c.cr nPTB).toNat.testBit 0
        match c.pfDest pl p pa tv with
        | .away => s
        | .dropped => s.countCore n 0x54 1
        | .line a hint => s.askPrefetch n ⟨a / 128, hint, ctl.testBit 5, if translated then [tv] else []⟩

/-- A demand load of the sectors `mask` of a local line: a hit, or a miss register (R256, R270). None where the
miss must wait; `watch` is whether the stream prefetcher watches it. -/
def State.touch (s : State) (n pl : Nat) (p : Piece) (pa : Nat) (mask : BitVec 4) (watch : Bool) : Option State :=
  let l := pa / 128
  let x := (s.core n).l1Line l
  if mask &&& ~~~x.valid = 0 then
    let s := (s.countCore n 0x50 1).updCore n fun c => c.warmL1 l
    -- A confirmed stream goes on with a hit on a line that it prefetched (the example of R277).
    let line : Int := (p.va / 128 : Nat)
    let expected := (s.core n).streams.any fun t => decide (t.count ≥ 3) && line - t.last == t.stride
    some (if watch && expected then s.prefetchFor n pl p pa else s)
  else match s.l1MissFor n l (mask &&& ~~~x.valid) p.hint false [] with
    | none => none
    | some s => some (if watch then s.prefetchFor n pl p pa else s)

/-! ### Loads -/

/-- How a load ends. -/
inductive Ld where
  | ok (s : State) (bs : List Byte)
  | trap (s : State) (cause : Nat) (tval : W64)
  | wait (s : State) (w : Wait)

/-- How a load is made: `many` for an instruction of several lines, whose later misses wait within it; `poisonOk`
where poison is carried and not consumed (R411). -/
structure LdHow where
  watch : Bool
  many : Bool
  poisonOk : Bool
deriving DecidableEq, Repr

/-- A window register read by a core at M (R16, R380): data, and RC fields clear. -/
def State.winLoad (s : State) (o len : Nat) : State × List Byte :=
  if !accessOk o len then (s, List.replicate len 0)
  else
    let a := o - o % 8
    let v := s.regRead a
    let rc := rcBits a &&& accessMask o len
    let bs := bytesOf len (if o % 8 = 4 then (v >>> 32).toNat else v.toNat)
    (if rc = 0 then s else s.setReg a (s.reg a &&& ~~~rc), bs)

/-- The bytes of a placed piece, each with its poison. -/
def State.seePiece (s : State) (n : Nat) (p : Piece) : List PByte :=
  match p.place with
  | .mem pa => (List.range p.len).map fun i => s.seeByte n (pa + i)
  | .sram o => (List.range p.len).map fun i => ((s.core n).sramByte (o + i), false)
  | .away ga =>
    match s.remoteSector n (ga / 32) with
    | .ready d bad =>
      let x := (s.core n).l1Line (ga / 128)
      let bad := bad || (x.valid &&& x.poison).toNat.testBit (ga / 32 % 4)
      (List.range p.len).map fun i =>
        ((s.core n).buffered.filter fun e => e.ver.isNone).foldl (fun b e => e.see (ga + i) b) (byteAt d ((ga + i) % 32), bad)
    | _ => []
  | _ => []

def Piece.isWin (p : Piece) : Bool := match p.place with
  | .win _ => true
  | _ => false

def Piece.isAway (p : Piece) : Bool := match p.place with
  | .away _ => true
  | _ => false

def Piece.gsec (p : Piece) : Nat := match p.place with
  | .away ga => ga / 32
  | _ => 0

/-- A line that a load takes: the first piece in it, its address and the sectors. -/
structure LinePart where
  piece : Piece
  pa : Nat
  mask : BitVec 4

/-- The local lines of a load, in order (R256: each misses once, for all the sectors needed of it). -/
def lineParts (ps : List Piece) : List LinePart :=
  (ps.foldl (fun (r : List LinePart) p =>
    match p.place with
    | .mem pa =>
      let bit : BitVec 4 := BitVec.ofNat 4 (2 ^ (pa / 32 % 4))
      match r with
      | x :: t => if x.pa / 128 = pa / 128 then { x with mask := x.mask ||| bit } :: t else ⟨p, pa, bit⟩ :: r
      | [] => [⟨p, pa, bit⟩]
    | _ => r) []).reverse

/-- A line of a load of several lines: where it must wait, the core's older misses are filled within the instruction,
oldest first. False where that does not help. -/
def State.missWithin (n pl : Nat) (watch : Bool) (x : LinePart) : Nat → State → State × Bool
  | 0, t => (t, false)
  | k + 1, t =>
    match t.touch n pl x.piece x.pa x.mask watch with
    | some t => (t, true)
    | none => match if k = 0 then none else (t.core n).oldestMiss with
      | some m => State.missWithin n pl watch x k (t.fillMiss n m)
      | none => (t, false)

/-- The misses of a load's local lines; false where one must wait. -/
def State.touchAll (s : State) (n pl : Nat) (how : LdHow) (ps : List Piece) : State × Bool :=
  (lineParts ps).foldl (fun (r : State × Bool) x =>
    if !r.2 then r
    else State.missWithin n pl how.watch x (if how.many then 34 else 1) r.1) (s, true)

/-- The remote lines of a load, as `lineParts`. -/
def farParts (ps : List Piece) : List LinePart :=
  (ps.foldl (fun (r : List LinePart) p =>
    match p.place with
    | .away ga =>
      let bit : BitVec 4 := BitVec.ofNat 4 (2 ^ (ga / 32 % 4))
      match r with
      | x :: t => if x.pa / 128 = ga / 128 then { x with mask := x.mask ||| bit } :: t else ⟨p, ga, bit⟩ :: r
      | [] => [⟨p, ga, bit⟩]
    | _ => r) []).reverse

/-- An RD of core `n` is outstanding for some sector of a line. -/
def State.lineOut (s : State) (n l : Nat) : Bool := (List.range 4).any fun i => s.rdOut n (4 * l + i)

/-- Absent sectors of remote lines are asked for; each line takes a miss register of the L1 and of its slice, and is
watched by the stream prefetcher (R270 to R272, R275). A line that finds none is asked for later. -/
def State.missRemote (s : State) (n pl : Nat) (watch : Bool) (xs : List LinePart) : State :=
  xs.foldl (fun (s : State) x =>
    let l := x.pa / 128
    let secs := ((sectors x.mask).map fun i => 4 * l + i).filter fun sec => s.remoteSector n sec == .absent
    if secs.isEmpty then s
    else if ((s.core n).l1Miss.any fun m => m.line == l) then s.askRemote n secs
    else match s.l1MissFor n l x.mask x.piece.hint false [] with
      | none => s
      | some t =>
        let t := t.askRemote n secs
        if !t.lineOut n l then s else if watch then t.prefetchFor n pl x.piece x.pa else t) s

/-- A remote line whose sectors a load has: a hit in L1, a hit in the slice, or a new copy there, under its HINT;
pinned acts as reuse (R256, R259, R263, R340). -/
def State.touchFar (s : State) (n : Nat) (x : LinePart) : State :=
  let l := x.pa / 128
  let hint := if x.piece.hint = 3 then 2 else x.piece.hint
  let fresh := (s.core n).remote.any fun d => match d with
    | .data a _ _ => a.toNat / 128 == l
    | _ => false
  if !fresh && x.mask &&& ~~~((s.core n).l1Line l).valid == 0 then
    (s.countCore n 0x50 1).updCore n fun c => c.warmL1 l
  else
    let s :=
      if !fresh then ((s.countCore n 0x51 1).countDev 0x80 (s.home l) 1).llcFill l x.mask 0 hint false
      else if (s.llcLine l).valid = 0 then s
      else (s.setLlc l { s.llcLine l with age := fillAge hint }).slotAge l
    if s.cacheRemote then (s.crossDie n l (sectors x.mask).length).l1Fill n l x.mask 0 false (hint == 1) else s

/-- The address in CORE_TVAL of consumed poison: the one that the instruction used (R410). -/
def Piece.poisonAt (p : Piece) : W64 := BitVec.ofNat 64 (p.va / 32 * 32)

/-- Load bytes for core `n` at a level (R82, R234, R256, R351, R410). -/
def State.load (s : State) (n pl : Nat) (up : List Upset) (how : LdHow) (va len : Nat) : Ld × List Bool :=
  match s.span n .load pl va len with
  | (s, ps, cs) =>
    let refused := ps.filterMap fun p => match p.place with
      | .refused ga => some (0x0A, (BitVec.ofNat 64 ga : W64))
      | .away ga => if s.remoteSector n (ga / 32) = .failed then some (0x0A, BitVec.ofNat 64 ga) else none
      | _ => none
    match firstCause (cs ++ refused) with
    | some c => (.trap s c.1 c.2, [])
    | none =>
      let c := s.core n
      if !c.tops.isEmpty && ps.any fun p => p.isWin || p.isAway then (.wait s .tiles, [])
      else
        let away := (ps.filter Piece.isAway).map Piece.gsec
        let far := fun (u : Upset) => match u with
          | .slice sec _ => isRemoteLine (sec / 4)
          | _ => false
        -- An error in a remote line comes before it is found present: it may have to be read again (R282).
        let s := (up.filter far).foldl (fun s u => s.upset n u) s
        if away.any fun sec => s.remoteSector n sec == .absent then (.wait (s.missRemote n pl how.watch (farParts ps)) .remote, [])
        else
          let s := (up.filter fun u => !far u).foldl (fun s u => match u with
            | .reg _ => s
            | .tile _ _ => s
            | u => s.upset n u) s
          match s.touchAll n pl how ps with
          | (s, false) => (.wait s .miss, [])
          | (s, true) =>
            let s := (farParts ps).foldl (fun (s : State) x => s.touchFar n x) s
            match ps with
            | [⟨_, .win o, k, _, _⟩] =>
              let r := s.winLoad o k
              (.ok r.1 r.2, [])
            | _ =>
              let data := ps.map fun p => match p.place with
                | .win _ => (p, List.replicate p.len ((0, false) : PByte))
                | _ => (p, s.seePiece n p)
              let bad := data.filter fun d => d.2.any fun b => b.2
              match bad with
              | d :: _ =>
                if how.poisonOk then
                  (.ok s ((data.map fun d => d.2.map fun b => b.1).flatten), (data.map fun d => d.2.map fun b => b.2).flatten)
                else (.trap s 0x09 d.1.poisonAt, [])
              | [] => (.ok s ((data.map fun d => d.2.map fun b => b.1).flatten), [])

/-- A scalar load. -/
def LdHow.scalar : LdHow := ⟨true, false, false⟩

/-! ### The store buffer -/

/-- A sector must be read from its row, which is being copied: the access waits (R308). -/
def State.readWaits (s : State) (sec : Nat) : Bool :=
  BitVec.ofNat 4 (2 ^ (sec % 4)) &&& ~~~(s.llcLine (sec / 4)).valid != 0 && s.lineCopying (sec / 4)

/-- A store covers a part of its sector, which its home slice must hold first (R260). -/
def SbEntry.partly (e : SbEntry) : Bool := e.mask != BitVec.allOnes 32 || e.keep != 0

/-- Take a store of a version or a committed one to its destination (R257, R236 to R239, R341). False where
it stays: its set has no way for it, or the row that it must read is being copied (R308). -/
def State.perform (s : State) (n : Nat) (e : SbEntry) : State × Bool :=
  match e.ver with
  | some v =>
    if !(s.ver v).undecided then (s, true)
    else if isGlobal e.addr.toNat then
      (s.holdRemote n v e, true)
    else s.holdStore v e
  | none =>
    if isGlobal e.addr.toNat then
      (deadParts e).foldl (fun (r : State × Bool) e =>
        let s := r.1.sendOrWait (.store n e.pl) e r.1.tb.epoch
        (s, r.2)) (s, true)
    else if e.dead then (s.deadLine (e.addr.toNat / 128), true)
    else if e.partly && s.readWaits (e.addr.toNat / 32) then (s, false)
    else
      let d := e.settled fun i => s.byte (e.addr.toNat + i)
      let r := s.commitSector (some n) (e.addr.toNat / 32) e.mask d e.poison (e.keep == 0) e.hint.toNat
      (if r.2 then r.1 else r.1.logStore n e.addr.toNat e.pl 0 false, true)

/-- Remove an entry of a core's store buffer by its place. -/
def Core.dropSb (c : Core) (i : Nat) : Core := { c with sb := c.sb.take i ++ c.sb.drop (i + 1) }

/-- Whether an older entry of the buffer goes to the same line (R267). -/
def Core.blockedSb (c : Core) (i : Nat) (e : SbEntry) : Bool :=
  (c.sb.take i).any fun x => x.addr.toNat / 128 == e.addr.toNat / 128 && x.ver == e.ver

/-- Sectors that an entry stores to. -/
def SbEntry.secs (e : SbEntry) : List Nat :=
  if e.dead then (List.range 4).map fun i => e.addr.toNat / 32 + i else [e.addr.toNat / 32]

/-- A store that meets an error on its path poisons its sectors at their home (R405, R413): in the line that its version
holds, or in local memory. In another device's memory it poisons nothing, since no packet carries poison (R415). False where
it stays, its set having no way for it. -/
def State.spoil (s : State) (n : Nat) (e : SbEntry) : State × Bool :=
  let home := if isGlobal e.addr.toNat then match s.served e.addr.toNat with
      | .here pa => some pa
      | _ => none
    else some e.addr.toNat
  match e.ver with
  | some v =>
    if !(s.ver v).undecided || isGlobal e.addr.toNat then (s, true)
    else match s.holdStore v e with
      | (t, true) => (e.secs.foldl (fun (t : State) sec => (t.poisonHeld v sec).poisonMade n sec 3) t, true)
      | (t, false) => (t, false)
  | none => match home with
    | none => (s, true)
    | some pa => (e.secs.foldl (fun (t : State) q =>
        let sec := pa / 32 + (q - e.addr.toNat / 32)
        if t.frameRetired (sec / 128) then t else (t.poison sec).poisonMade n sec 3) s, true)

/-- A store meets an error in the L1 line that it updates: the line is invalidated, and the store goes on (R405). -/
def State.l1Met (s : State) (n : Nat) (e : SbEntry) : State :=
  e.secs.foldl (fun (s : State) sec => s.upset n (.l1 sec false)) s

/-- An entry of a core's store buffer leaves it, in the order of its line (R257, R267); one that meets an error on its path
is logged with KIND 0b00 (R112, R405). -/
def State.drain (s : State) (n i : Nat) (err : DrainErr) : State :=
  let c := s.core n
  match c.sb[i]? with
  | none => s
  | some e =>
    if c.blockedSb i e then s
    else
      let r := match err with
        | .none => s.perform n e
        | .l1 => (s.l1Met n e).perform n e
        | .path => s.spoil n e
      if !r.2 then s
      else
        let t := r.1.updCore n fun c => c.dropSb i
        if err = .path then t.logStore n e.addr.toNat e.pl 0 (isGlobal e.addr.toNat) else t

/-- Whether a store merges into an entry of the buffer (R257). -/
def SbEntry.takes (a b : SbEntry) : Bool :=
  a.addr == b.addr && a.ver == b.ver && !a.dead && !b.dead

/-- Two stores to one line, of one version or both committed: they are performed in program order (R267). -/
def SbEntry.sameLine (a b : SbEntry) : Bool := a.addr.toNat / 128 == b.addr.toNat / 128 && a.ver == b.ver

/-- A store merges into the youngest entry of its line, and past none (R257, R267); entries youngest first. None where
that entry does not take it. -/
def mergeYoungest (e : SbEntry) : List SbEntry → Option (List SbEntry)
  | [] => none
  | a :: t =>
    if a.sameLine e then if a.takes e then some (a.merge e :: t) else none
    else (mergeYoungest e t).map fun t => a :: t

/-- Put a store into the buffer: into the entry of its sector, or as a new one. -/
def Core.pushSb (c : Core) (e : SbEntry) : Core :=
  match mergeYoungest e c.sb.reverse with
  | some l => { c with sb := l.reverse }
  | none => { c with sb := c.sb ++ [e] }

/-- A younger store goes to the buffer, or is held behind the unsettled tile operations (R110). -/
def Core.putStore (c : Core) (e : SbEntry) : Core :=
  match c.tops.getLast? with
  | none => c.pushSb e
  | some o => { c with heldSt := c.heldSt ++ [⟨o.seq, e⟩] }

/-- Enter stores one by one, the oldest entry leaving where the buffer is full; none where it cannot leave. -/
def State.enterEach (n : Nat) : List SbEntry → State → Option State
  | [], s => some s
  | e :: t, s =>
    let c := s.core n
    if (c.pushSb e).sb.length ≤ 32 then State.enterEach n t (s.setCore n (c.pushSb e))
    else
      let s := s.drain n 0 .none
      if (s.core n).sb.length < 32 then State.enterEach n t (s.updCore n fun c => c.pushSb e) else none

/-- How a store ends at issue. -/
inductive St where
  | ok (s : State)
  | trap (s : State) (cause : Nat) (tval : W64)
  | wait (s : State) (w : Wait)

/-- The entry of a placed piece of a store. -/
def storeEntry (c : Core) (p : Piece) (addr : Nat) (bs : List Byte) (poison : Bool) : SbEntry :=
  let m := spanSector addr bs
  { addr := BitVec.ofNat 64 (addr / 32 * 32), mask := m.1, data := m.2, poison := poison, dead := false,
    pl := BitVec.ofNat 2 c.pl, ver := c.heldVer, hint := BitVec.ofNat 2 p.hint, keep := 0, part := 0, count := 0 }

/-- Held lines, and lines that stores on their way will still hold, fill the set of a new line of a version (R238). -/
def State.setCrowded (s : State) (v l : Nat) : Bool :=
  let coming := (List.range Config.versions).foldl (fun n w => n + ((s.comingLines w).filter fun k =>
    s.home k == s.home l && s.setIdx k == s.setIdx l && !(w == v && k == l)).length) 0
  decide ((s.setHeld l).length + coming ≥ 4)

/-- Whether a store of a version must wait, and for what (R237, R238). -/
def State.storeWaits (s : State) (v : Nat) (es : List SbEntry) : Option Wait :=
  if !(s.ver v).undecided then none
  else
    let held := ((s.ver v).lines.map fun p => p.1) ++ s.comingLines v
    let new := ((es.filter fun e => !isGlobal e.addr.toNat).map fun e => e.addr.toNat / 128).eraseDups.filter fun l =>
      !held.contains l
    let rem := storeCount (es.filter fun e => isGlobal e.addr.toNat)
    if (!new.isEmpty || rem != 0) && decide (s.footNow v + new.length + rem > footLimit) then some .verdict
    else if new.any fun l => s.setCrowded v l then some .setWay
    else none

/-- How the bytes of a store enter: the bits of byte i that stay as they are (R128), whether it lies in a packed
group with an inactive element (R517), and whether its sector is stored as poisoned (R163). -/
structure StHow where
  keep : Nat → Byte
  part : Nat → Bool
  poison : Nat → Bool

/-- Whole bytes of good data. -/
def StHow.plain : StHow := ⟨fun _ => 0, fun _ => false, fun _ => false⟩

/-- The entry of a placed piece of a store whose bytes begin at byte `i` of it. -/
def pieceEntry (c : Core) (p : Piece) (addr : Nat) (bs : List Byte) (how : StHow) (i : Nat) : SbEntry :=
  let idx := List.range bs.length
  { storeEntry c p addr bs (how.poison i) with
    keep := (spanSector addr (idx.map fun k => how.keep (i + k))).2
    part := BitVec.ofNat 32 (ofBits (idx.map fun k => how.part (i + k)) <<< (addr % 32)) }

/-- One store counts once in the footprint of its version, in its first remote entry (R237). -/
def countOnce : List SbEntry → List SbEntry
  | [] => []
  | e :: t => if isGlobal e.addr.toNat then { e with count := 1 } :: t else e :: countOnce t

/-- Make the entries of a store's pieces; window and SRAM pieces are written at once (R380, R101). -/
def State.storePieces (s : State) (n : Nat) (how : StHow) (ps : List Piece) (bs : List Byte) :
    State × List SbEntry :=
  let r := ps.foldl (fun (r : State × List SbEntry × Nat) p =>
    let c := r.1.core n
    let k := (bs.drop r.2.2).take p.len
    match p.place with
    | .mem pa => (r.1, r.2.1 ++ [pieceEntry c p pa k how r.2.2], r.2.2 + p.len)
    | .away ga => (r.1, r.2.1 ++ [pieceEntry c p ga k how r.2.2], r.2.2 + p.len)
    | .refused ga => (r.1, r.2.1 ++ [pieceEntry c p ga k how r.2.2], r.2.2 + p.len)
    | .sram o =>
      let b := (List.range k.length).map fun i =>
        (k.getD i 0 &&& ~~~(how.keep (r.2.2 + i))) ||| (c.sramByte (o + i) &&& how.keep (r.2.2 + i))
      (r.1.updCore n fun c => c.setSram o b, r.2.1, r.2.2 + p.len)
    | .win o =>
      -- Registers take one aligned access of 4 or 8 bytes, and no part of another (R16).
      (if ps.length == 1 && accessOk o p.len then
        r.1.regWrite (o - o % 8) (accessVal o p.len (BitVec.ofNat 64 (ofBytes k))) (accessMask o p.len) else r.1,
        r.2.1, r.2.2 + p.len)) (s, [], 0)
  (r.1, r.2.1)

/-- Enter stores of core `n`: they are dropped with a discarded version (R245), and wait for their version (R237, R238)
or for room (R257); `many` drains older entries within the instruction. -/
def State.enterStores (s : State) (n : Nat) (es : List SbEntry) (many : Bool) : St :=
  let c := s.core n
  if (c.heldVer.any fun v => (s.ver v).state == .discarding) then .ok s
  else match (match c.heldVer with
    | some v => (s.storeWaits v es).map fun w => (v, w)
    | none => none) with
  | some (_, w) => .wait s w
  | none =>
    let entered := es.foldl (fun c e => c.putStore e) c
    if !c.tops.isEmpty || decide (entered.sb.length ≤ 32) then .ok (s.setCore n entered)
    else if many then
      match State.enterEach n es s with
      | some s => .ok s
      | none => .wait s .stores
    else .wait s .stores

/-- Whether a placed piece of a store acts at once, or leaves the device (R101, R332, R380). -/
def Piece.own (p : Piece) : Bool := match p.place with
  | .win _ => true
  | .sram _ => true
  | .away _ => true
  | .refused _ => true
  | .mem _ => false

/-- A span to be stored: its address, its bytes and how they enter. -/
structure StSpan where
  va : Nat
  bytes : List Byte
  how : StHow

/-- Store spans of core `n` as one store (R82, R133, R257): nothing is written where a byte faults or a part waits. -/
def State.storeAll (s : State) (n : Nat) (xs : List StSpan) (many : Bool) : St :=
  let pl := (s.core n).pl
  let r := xs.foldl (fun (r : State × List (List Piece) × List (Nat × W64)) x =>
    match r.1.span n .store pl x.va x.bytes.length with
    | (s, ps, cs) => (s, r.2.1 ++ [ps], r.2.2 ++ cs)) (s, [], [])
  let s := r.1
  match firstCause r.2.2 with
  | some c => .trap s c.1 c.2
  | none =>
    if (r.2.1.any fun ps => ps.any Piece.own) && !(s.core n).tops.isEmpty then .wait s .tiles
    else
      let w := (r.2.1.zip xs).foldl (fun (q : State × List SbEntry) x =>
        let p := q.1.storePieces n x.2.how x.1 x.2.bytes
        (p.1, q.2 ++ p.2)) (s, [])
      let es := countOnce w.2
      if es.isEmpty then .ok w.1
      else match s.enterStores n es many with
        | .ok _ => w.1.enterStores n es many
        | x => x

/-- Store bytes for core `n`. -/
def State.store (s : State) (n va : Nat) (bs : List Byte) (how : StHow) (many : Bool) : St :=
  s.storeAll n [⟨va, bs, how⟩] many

/-! ### Atomics (R91, R345) -/

/-- The new value of an atomic: operation, width in bits, old value, operand, compare value (R91). -/
def atomicOp (op w old b cmp : Nat) : Nat :=
  let m := 2 ^ w
  if op = 0 then b % m
  else if op = 1 then (old + b) % m
  else if op = 2 then (old &&& b) % m
  else if op = 3 then (old ||| b) % m
  else if op = 4 then (old ^^^ b) % m
  else if op = 5 then if sint w old < sint w b then b % m else old
  else if op = 6 then if sint w b < sint w old then b % m else old
  else if old = cmp % m then b % m else old

/-- An atomic on a local sector at its home slice; the old value (R267). -/
def State.atomicHome (s : State) (n : Option Nat) (pa op w b cmp hint : Nat) : State × Nat :=
  let k := w / 8
  let old := ofBytes (s.bytesAt pa k)
  let m := spanSector pa (bytesOf k (atomicOp op w old b cmp))
  ((s.commitSector n (pa / 32) m.1 m.2 false false hint).1, old)

/-- The read of an atomic's sector at its home slice. -/
def State.readAtom (s : State) (pa hint : Nat) : State :=
  s.readFill (pa / 128) (BitVec.ofNat 4 (2 ^ (pa / 32 % 4))) hint (decide (hint = 3))

/-- That read finds its sector failed, and it comes poisoned (R307). -/
def State.readSpoils (s : State) (pa hint : Nat) : Bool :=
  !s.mem.finds.isEmpty && (s.readAtom pa hint).poisoned (pa / 32)

/-- A WR of this device to a sector waits or is outstanding. -/
def State.wrBusy (s : State) (sec : Nat) : Bool :=
  s.wrOutstanding sec || s.pel.rwait.any fun w => w.entry.addr.toNat / 32 == sec

/-- The answer to an outstanding remote atomic of core `n`, if it has come. -/
def State.atomAnswer (s : State) (n ga : Nat) : Option RemoteData :=
  (s.core n).remote.find? fun d => match d with
    | .old a _ _ => a.toNat == ga
    | .failed a => a.toNat == ga / 32 * 32
    | _ => false

/-- How an atomic ends. -/
inductive At where
  | ok (s : State) (old : Nat)
  | trap (s : State) (cause : Nat) (tval : W64)
  | wait (s : State) (w : Wait)

/-- An atomic of core `n` on address `va` (R91, R236, R250, R351). -/
def State.atomic (s : State) (n va op w b cmp : Nat) : At :=
  let c := s.core n
  let k := w / 8
  match s.span n .atomic c.pl va k with
  | (s, ps, cs) =>
    let mis := if va % k ≠ 0 then [(0x05, (BitVec.ofNat 64 va : W64))] else []
    let ref := ps.filterMap fun p => match p.place with
      | .refused ga => some (0x0A, (BitVec.ofNat 64 ga : W64))
      | _ => none
    match firstCause (cs ++ mis ++ ref) with
    | some c => .trap s c.1 c.2
    | none =>
      if !c.tops.isEmpty then .wait s .tiles
      else if c.heldVer.isSome then .wait s .verdict
      else match ps with
        | [p] =>
          match p.place with
          | .mem pa =>
            if c.sb.any fun e => e.addr.toNat / 128 == pa / 128 then .wait s .stores
            else if s.poisoned (pa / 32) then .trap s 0x09 p.poisonAt
            else if s.readWaits (pa / 32) then .wait s .miss
            else if s.readSpoils pa p.hint then .trap (s.readAtom pa p.hint) 0x09 p.poisonAt
            else
              let r := s.atomicHome (some n) pa op w b cmp p.hint
              .ok r.1 r.2
          | .win o =>
            let r := s.winLoad o k
            let old := ofBytes r.2
            .ok (r.1.regWrite (o - o % 8) (accessVal o k (BitVec.ofNat 64 (atomicOp op w old b cmp))) (accessMask o k)) old
          | .sram o =>
            let old := ofBytes ((List.range k).map fun i => c.sramByte (o + i))
            .ok (s.updCore n fun c => c.setSram o (bytesOf k (atomicOp op w old b cmp))) old
          | .away ga =>
            match s.atomAnswer n ga with
            | some (.old _ v bad) =>
              if bad then .trap s 0x09 (BitVec.ofNat 64 (ga / 32 * 32)) else .ok s v.toNat
            | some _ => .trap s 0x0A (BitVec.ofNat 64 ga)
            | none =>
              let out := s.pel.trackers.any fun t => match t.2 with
                | some t => t.origin == .atomic n
                | none => false
              if out then .wait s .remote
              else if (c.sb.any fun e => e.addr.toNat / 32 == ga / 32) then .wait s .stores
              else if s.wrBusy (ga / 32) then .wait s .remote
              else
                let func := op + (if w = 64 then 128 else 0)
                match s.request (gDevice ga) (fun t => s.packet 5 (gDevice ga) t 0 func (gLocal ga) 16 0 0
                    (bytesOf 8 b ++ bytesOf 8 cmp)) (.atomic n) [] none with
                | some s => .wait s .remote
                | none => .wait s .remote
          | .refused ga => .trap s 0x0A (BitVec.ofNat 64 ga)
        | _ => .trap s 0x05 (BitVec.ofNat 64 va)

end Sys2Proof.Machine
end

