-- ==== Sys2Proof/Machine/Ops.lean ====
section
/-! DEFINITION. The named operations that instructions share: taking an exception (R96 to R103, R516), a cause
deferred under speculation (R246), returning (R104), asynchronous delivery (R109), and the frame in which an
instruction runs (R81, R105 to R111, R406). -/

namespace Sys2Proof.Machine

/-! ### Descriptors and frames -/

/-- A descriptor of R97. -/
structure Desc where
  handler : W64
  sp : W64
  limit : W64
  imask : Bool
  keep : Bool
  target : Nat
  valid : Bool
deriving DecidableEq, Repr

/-- Four doublewords of local physical memory or of the core's SRAM; none outside them or where poisoned. -/
def State.descWords (s : State) (n a : Nat) : Option (List W64) :=
  if visible a 32 then
    let bs := (List.range 32).map fun i => s.seeCommitted n (a + i)
    if bs.any fun b => b.2 then none
    else some ((List.range 4).map fun i => BitVec.ofNat 64 (ofBytes (((bs.drop (8 * i)).take 8).map fun b => b.1)))
  else if isSram a 32 then
    some ((List.range 4).map fun i =>
      BitVec.ofNat 64 (ofBytes ((List.range 8).map fun k => (s.core n).sramByte (a - sramBase + 8 * i + k))))
  else none

/-- The descriptor of a cause in the table of a level (R96, R98, R516). -/
def State.desc (s : State) (n lvl cause : Nat) : Option Desc :=
  let dtb := (s.core n).cr (if lvl = 0 then 0x020 else if lvl = 1 then 0x021 else 0x022)
  match s.descWords n (dtb.toNat + 32 * cause) with
  | some [h, sp, lim, f] =>
    some ⟨h, sp, lim, f.toNat.testBit 4, f.toNat.testBit 3, W64.fld f 2 1, f.toNat.testBit 0⟩
  | _ => none

/-- The levels whose tables are tried, lowest first (R98). -/
def levelsFrom (pl : Nat) : List Nat := if pl = 0 then [0, 1, 3] else if pl = 1 then [1, 3] else [3]

/-- The first table with a descriptor that may be used (R98). -/
def State.findDesc (s : State) (n cause : Nat) : Option Desc :=
  let pl := (s.core n).pl
  (levelsFrom pl).findSome? fun lvl =>
    match s.desc n lvl cause with
    | some d => if d.valid && d.target != 2 && decide (pl ≤ d.target) then some d else none
    | none => none

/-- CORE_CAUSE of an event (R106). -/
def causeWord (cause : Nat) (asyn : Bool) (eng : Option Nat) (half orig : Nat) : W64 :=
  BitVec.ofNat 64 (b1 asyn * 2 ^ 63 + b1 (eng.isSome && half == 1) * 2 ^ 27 + b1 eng.isSome * 2 ^ 26 +
    (eng.getD 0) % 1024 * 2 ^ 16 + orig % 128 * 256 + cause % 128)

/-- The 64 bytes of a frame (R99). -/
def Core.frame (c : Core) (cw tval extra : W64) : List Byte :=
  bytesOf 8 c.arch.pc.toNat ++ bytesOf 8 (c.cr nSTATUS).toNat ++ bytesOf 8 cw.toNat ++ bytesOf 8 tval.toNat ++
    bytesOf 8 (c.cr nPROGRESS).toNat ++ bytesOf 8 (c.arch.rg 31).toNat ++ bytesOf 8 (c.cr nSLIM).toNat ++ bytesOf 8 extra.toNat

/-- CORE_STATUS on entry: level, IE under IMASK, NEST (R98). -/
def enterStatus (st : W64) (pl : Nat) (mask : Bool) : W64 :=
  let st := W64.setFld st 1 0 pl
  let st := if mask then W64.setFld st 2 2 0 else st
  W64.setFld st 23 16 (min 255 (W64.fld st 23 16 + 1))

/-- The registers of a core after an entry (R98). -/
def Core.enter (c : Core) (f : Nat) (slim : W64) (pl : Nat) (mask : Bool) (cw tval pc : W64) : Core :=
  let a := (c.arch.setG 31 (BitVec.ofNat 64 f)).setCr nSLIM (slim &&& fmask 63 6)
  let a := (a.setCr nSTATUS (enterStatus (a.cr nSTATUS) pl mask)).setCr nCAUSE cw
  let a := (a.setCr nTVAL tval).setCr nPROGRESS (W64.setFld (a.cr nPROGRESS) 63 63 0)
  { c with arch := { a with pc := pc &&& ~~~3 }, wait := .none, remote := [], parity := c.parity.filter fun k => k != 31 }

/-! ### The push -/

/-- How a push ends (R98, R516). -/
inductive Push where
  | ok (s : State)
  | fail (s : State)
  | wait (s : State) (w : Wait)

/-- Older stores of a core to a line leave its buffer first, in order. -/
def State.drainLine (n l : Nat) : Nat → State → State
  | 0, s => s
  | k + 1, s =>
    match (s.core n).sb.findIdx? fun e => e.addr.toNat / 128 == l with
    | none => s
    | some i => State.drainLine n l k (s.drain n i .none)

/-- The answer to a pushed remote store, if it has come. -/
def Core.pushed (c : Core) (sec : W64) : Option Bool :=
  c.remote.findSome? fun d => match d with
    | .stored a good => if a = sec then some good else none
    | _ => none

/-- Whether a pushed store of a core to a sector is still out. -/
def State.pushOut (s : State) (n : Nat) (sec : W64) : Bool :=
  (s.pel.trackers.any fun t => match t.2 with
    | some t => (t.origin :: t.also).contains (.push n) && (match t.entry with
      | some e => e.addr == sec
      | none => false)
    | none => false) || s.pel.rwait.any fun w => (w.origin :: w.also).contains (.push n) && w.entry.addr == sec

/-- One placed piece of a frame is stored: false where it meets a bus error. -/
def State.pushPiece (s : State) (n : Nat) (ver : Option Nat) (p : Piece) (bs : List Byte) : State × Bool :=
  match p.place with
  | .mem pa =>
    let s := State.drainLine n (pa / 128) 32 s
    let e := storeEntry (s.core n) p pa bs false
    match ver with
    | some v => if (s.ver v).undecided then s.holdStore v e else (s, true)
    | none => s.commitSector (some n) (pa / 32) e.mask e.data false true p.hint
  | .win o =>
    ((List.range 4).foldl (fun s i => s.regWrite (o + 8 * i) (BitVec.ofNat 64 (ofBytes ((bs.drop (8 * i)).take 8)))
      (BitVec.allOnes 64)) s, true)
  | .sram o => (s.updCore n fun c => c.setSram o bs, true)
  | .away ga =>
    match ver with
    | some v =>
      (s.holdRemote n v { storeEntry (s.core n) p ga bs false with count := 1 }, true)
    | none => (s, true)
  | .refused ga =>
    match ver with
    | some v =>
      (s.holdRemote n v { storeEntry (s.core n) p ga bs false with count := 1 }, true)
    | none => (s, false)

/-- push_frame (R98, R516): 64 bytes at `f` under the translation of the target level. -/
def State.push (s : State) (n target f : Nat) (bs : List Byte) : Push :=
  let c := s.core n
  let ver := if c.spec && target != 3 then c.task.map fun t => t.q.d.version else none
  match s.span n .store target f 64 with
  | (s, ps, cs) =>
    if !cs.isEmpty then .fail s
    else
      let es := ps.filterMap fun p => match p.place with
        | .mem pa => some (storeEntry c p pa (List.replicate p.len 0) false)
        | .away ga => some { storeEntry c p ga (List.replicate p.len 0) false with count := 1 }
        | .refused ga => some { storeEntry c p ga (List.replicate p.len 0) false with count := 1 }
        | _ => none
      match (match ver with
        | some v => (s.storeWaits v es).map fun w => (v, w)
        | none => none) with
      | some (_, w) => .wait s (.push (w == .setWay))
      | none =>
        let away := ps.filterMap fun p => match p.place with
          | .away ga => if ver.isNone then some (p, ga) else none
          | _ => none
        let secOf := fun (ga : Nat) => (BitVec.ofNat 64 (ga / 32 * 32) : W64)
        if away.any fun a => (c.pushed (secOf a.2)).isNone then
          let s := away.foldl (fun (s : State) a =>
            if ((s.core n).pushed (secOf a.2)).isSome || s.pushOut n (secOf a.2) then s
            else
              let k := (bs.drop (a.1.va - f)).take a.1.len
              let e := storeEntry (s.core n) a.1 a.2 k false
              s.sendOrWait (.push n) { e with ver := none } s.tb.epoch) s
          .wait s .remote
        else if away.any fun a => c.pushed (secOf a.2) == some false then .fail s
        else
          let r := ps.foldl (fun (r : State × Bool) p =>
            if !r.2 then r else r.1.pushPiece n ver p ((bs.drop (p.va - f)).take p.len)) (s, true)
          if r.2 then .ok r.1 else .fail s

/-! ### Wedging and exhaustion (R101, R103) -/

/-- The core stops, its tile work is cancelled, its task is lost, and the control die is told (R103, R248). -/
def State.wedge (s : State) (n cause : Nat) (tval : W64) : State :=
  let lost := (s.core n).task.map fun t => t.q.d.taskid
  let s := (s.cancelTops n).loseTask n cause tval false
  let s := s.updCore n fun c => { c with mode := .wedged, wait := .none, remote := [] }
  { s with ctl := { s.ctl with wedges := s.ctl.wedges ++ [⟨n, cause, tval, lost⟩] } }

/-- Stack exhaustion is delivered at M on the machine-stack SRAM (R101). -/
def State.exhaust (s : State) (n cause : Nat) (tval sp : W64) : State :=
  let c := s.core n
  let g31 := (c.arch.rg 31).toNat
  let p := if c.pl = 3 ∧ sramBase ≤ g31 ∧ g31 < sramBase + 0x4000 then g31 else (c.cr nMSP).toNat
  let f := (p + 2 ^ 64 - 64) % 2 ^ 64 / 64 * 64
  if f < sramBase ∨ sramBase + 0x3FC0 < f then s.wedge n cause tval
  else match s.desc n 3 0x0C with
    | some d =>
      if !d.valid || d.target != 3 then s.wedge n cause tval
      else
        let cw := causeWord 0x0C false none 0 cause
        let c := c.setSram (f - sramBase) (c.frame cw sp tval)
        s.setCore n (c.enter f (BitVec.ofNat 64 sramBase) 3 true cw sp d.handler)
    | none => s.wedge n cause tval

/-! ### Delivery (R98) -/

/-- How a delivery ends: made, or waiting for its push. -/
inductive Dlv where
  | done (s : State)
  | wait (s : State) (w : Wait)

/-- Deliver a cause to core `n` at its present pc (R98). -/
def State.deliver (s : State) (n cause : Nat) (tval : W64) (asyn : Bool) (eng : Option Nat) (half : Nat) : Dlv :=
  let c := s.core n
  match s.findDesc n cause with
  | none => .done (s.wedge n cause tval)
  | some d =>
    let sp := if d.keep then c.arch.rg 31 else d.sp
    let lim := if d.keep then c.cr nSLIM else d.limit
    let f := (sp.toNat + 2 ^ 64 - 64) % 2 ^ 64 / 64 * 64
    let cw := causeWord cause asyn eng half 0
    if f < lim.toNat ∨ c.parity.contains 31 then .done (s.exhaust n cause tval sp)
    else match s.push n d.target f (c.frame cw tval 0) with
      | .fail s => .done (s.exhaust n cause tval sp)
      | .wait s w => .wait s w
      | .ok s => .done (s.updCore n fun c => c.enter f lim d.target d.imask cw tval d.handler)

/-- Deliver 0x22 (R245): a discarded task ends with the delivery. -/
def State.deliverVerdict (s : State) (n : Nat) : State :=
  let m := (s.core n).pend.verdictMask
  match (s.finishDiscard n).deliver n 0x22 m true none 0 with
  | .done s => s.updCore n fun c => { c with pend := { c.pend with verdict := false, verdictMask := 0 } }
  -- A delivery that waits for its push goes on whatever IE holds.
  | .wait s _ => s.updCore n fun c => { c with wait := .delivery }

/-- A synchronous cause at the present instruction of core `n`: delivered, or deferred under SPEC (R246). -/
def State.raise (s : State) (n cause : Nat) (tval : W64) (eng : Option Nat) (half : Nat) : State :=
  let c := s.core n
  match (if c.spec && cause != 0x0E && cause != 0x0F then c.task else none) with
  | some t =>
    let v := t.q.d.version
    let s := s.updVer v fun x => x.record n cause t.q.d.taskid tval
    let s := if (s.ver v).undecided then s.discard v 3 true else s
    s.deliverVerdict n
  | none =>
    match s.deliver n cause tval false eng half with
    | .done s => s
    | .wait s w => s.updCore n fun c => { c with wait := w }

/-! ### Asynchronous causes (R105, R108, R109) -/

def Pend.any (p : Pend) : Bool := p.lse || p.rstore || p.verdict || p.msg || p.epoch

/-- The core runs a task whose version is being discarded (R245). -/
def State.discarding (s : State) (n : Nat) : Bool :=
  match (s.core n).task with
  | some t => t.q.spec && (s.ver t.q.d.version).state == .discarding
  | none => false

/-- Whether 0x22 is delivered whatever IE holds (R109, R245), or its delivery has begun. -/
def State.verdictNow (s : State) (n : Nat) : Bool :=
  let c := s.core n
  c.pend.verdict && (c.wait == .delivery || (c.pl == 0 && s.discarding n))

/-- Whether an asynchronous cause is delivered before the next instruction begins (R109). -/
def State.asyncDue (s : State) (n : Nat) : Bool :=
  s.verdictNow n || ((s.core n).ie && (s.core n).pend.any)

/-- Deliver one asynchronous cause; its pending bit clears once it is delivered. DESIGN CHOICE (log entry 122): it counts
as delivered too where the delivery ends in exhaustion or in the wedged state. -/
def State.deliverAsync (s : State) (n cause : Nat) (tval : W64) (clear : Pend → Pend) : State :=
  match s.deliver n cause tval true none 0 with
  | .done s => s.updCore n fun c => { c with pend := clear c.pend }
  | .wait s w => s.updCore n fun c => { c with wait := w }

/-- The next asynchronous cause in the order of R109. -/
def State.nextAsync (s : State) (n : Nat) : State :=
  let p := (s.core n).pend
  if s.verdictNow n then s.deliverVerdict n
  else if !(s.core n).ie then s
  else if p.lse then s.deliverAsync n 0x0B (BitVec.ofNat 64 p.lseCount) fun p => { p with lse := false, lseCount := 0 }
  else if p.rstore then
    s.deliverAsync n 0x0A (BitVec.ofNat 64 p.rstoreCount) fun p => { p with rstore := false, rstoreCount := 0 }
  else if p.verdict then s.deliverVerdict n
  else if p.msg then s.deliverAsync n 0x21 p.msgMask fun p => { p with msg := false, msgMask := 0 }
  else if p.epoch then s.deliverAsync n 0x20 p.epochMask fun p => { p with epoch := false, epochMask := 0 }
  else s

/-! ### Register parity (R406, R416) -/

/-- An event of 0x32; the fourth within 2^40 cycles of the core schedules a test of it (R416). -/
def State.noteParity (s : State) (n : Nat) : State :=
  let s := s.countCore n 0x57 1
  let c := s.core n
  let at' := Tab.get 0 s.pwr.cycles (coreCluster n)
  let recent := c.parityAt.filter fun t => decide (at' < t + 2 ^ 40)
  if recent.length + 1 < 4 then s.setCore n { c with parityAt := recent ++ [at'] }
  else
    let s := s.setCore n { c with parityAt := [], noTake := true }
    if s.ctl.coreTests.any fun t => t.core == n then s
    else { s with ctl := { s.ctl with coreTests := s.ctl.coreTests ++ [⟨n, none, false⟩] } }

/-! ### The frame of an instruction -/

/-- How the body of an instruction ends. -/
inductive Res where
  /-- It completes, and the pc moves past it. -/
  | ok (s : State)
  /-- It completes, and the pc becomes this. -/
  | goto (s : State) (pc : W64)
  /-- It raises a cause; the state holds the completed rows or elements. -/
  | trap (s : State) (cause : Nat) (tval : W64)
  | wait (s : State) (w : Wait)

/-- A fetch asks for an absent remote sector: its line takes a miss register of its slice (R272). -/
def State.fetchRemote (s : State) (n sec : Nat) : State :=
  let l := sec / 4
  let bit : BitVec 4 := BitVec.ofNat 4 (2 ^ (sec % 4))
  if s.rdOut n sec || s.sliceWaits l bit then s
  else
    let t := s.askRemote n [sec]
    if t.rdOut n sec then t.sliceMiss l bit else s

/-- What the fetch of one word meets (R81, R250, R351, R410): a cause, or a wait. -/
def State.fetchWord (s : State) (n : Nat) (pc : W64) : State × Option ((Nat × W64) ⊕ Wait) :=
  let c := s.core n
  match s.translate n .fetch c.pl pc.toNat with
  | (s, .fault k t) => (s, some (.inl (k, t)))
  | (s, .ok pa _ _) =>
    match s.locate .fetch c.pl pc.toNat pa with
    | .inr k => (s, some (.inl k))
    | .inl (.mem pa) =>
      (s, if s.poisoned (pa / 32) then some (.inl (0x09, BitVec.ofNat 64 (pc.toNat / 32 * 32))) else none)
    | .inl (.away ga) =>
      if !c.tops.isEmpty then (s, some (.inr .tiles))
      else match s.remoteSector n (ga / 32) with
        | .failed => (s, some (.inl (0x0A, BitVec.ofNat 64 ga)))
        | .absent => (s.fetchRemote n (ga / 32), some (.inr .remote))
        | .ready _ bad => (s, if bad then some (.inl (0x09, BitVec.ofNat 64 (pc.toNat / 32 * 32))) else none)
    | .inl (.refused ga) => (s, some (.inl (0x0A, BitVec.ofNat 64 ga)))
    | .inl _ => (s, none)

/-- The fetch of an instruction of 4 or 8 bytes. -/
def State.fetchInsn (s : State) (n len : Nat) : State × Option ((Nat × W64) ⊕ Wait) :=
  let pc := (s.core n).arch.pc
  match s.fetchWord n pc with
  | (s, some (.inl k)) =>
    -- A cause of the second word may come first (R107).
    if len ≠ 8 || k.1 == 0x01 then (s, some (.inl k))
    else match s.fetchWord n (pc + 4) with
      | (s, some (.inl j)) => (s, some (.inl ((firstCause [k, j]).getD k)))
      | (s, some (.inr w)) => (s, some (.inr w))
      | (s, none) => (s, some (.inl k))
  | (s, some (.inr w)) => (s, some (.inr w))
  | (s, none) => if len = 8 then s.fetchWord n (pc + 4) else (s, none)

/-- The cause of an instruction whose fetch meets one: 0x02 comes before all but 0x01 where the first word can be read
and decodes to nothing (R107). -/
def State.fetchCause (s : State) (n : Nat) (k : Nat × W64) (body : State → Res) : Nat × W64 :=
  if k.1 = 0x01 ∨ (s.fetchWord n (s.core n).arch.pc).2.isSome then k
  else match body s with
    | .trap _ c t => if c = 0x02 then (c, t) else k
    | _ => k

/-- The registers that an instruction reads, and those it writes whole, by their codes of R406. -/
structure Uses where
  reads : List Nat
  writes : List Nat
deriving DecidableEq, Repr

/-- Core `n` stands within an instruction that has acted on another device already, or has its failure: no
boundary lies before it (R109). -/
def State.midRemote (s : State) (n : Nat) : Bool :=
  (s.pel.trackers.any fun t => match t.2 with
    | some t => t.origin == .atomic n
    | none => false) || (s.core n).remote.any fun d => match d with
    | .old _ _ _ => true
    | .failed _ => true
    | .data _ _ _ => false
    | .stored _ _ => false

/-- Whether core `n` can begin an instruction: it runs and no asynchronous cause comes first. -/
def State.ready (s : State) (n : Nat) : Bool :=
  decide (n < Config.cores) && (s.core n).runs && (!s.asyncDue n || s.midRemote n)

/-- An instruction has completed: the older operations that it passed count it (R110), written registers hold
good parity again (R406), and it is counted (R503). -/
def Core.complete (c : Core) (first : Nat) (writes : List Nat) : Core :=
  let tops := c.tops.map fun (o : TileOp) => if o.seq < first then { o with younger := o.younger + 1 } else o
  ({ c with wait := .none, remote := [], tops := tops,
            parity := c.parity.filter fun k => !writes.contains k } : Core).countInst

/-- A cause at the present instruction, once the older tile operations have settled (R111). -/
def State.trapInsn (s0 s : State) (n cause : Nat) (tval : W64) : State :=
  if !(s0.core n).tops.isEmpty then s0.updCore n fun c => { c with wait := .tiles }
  else if cause = 0x32 then (s.noteParity n).raise n cause tval none 0
  else s.raise n cause tval none 0

/-- Run an instruction of core `x.core` (R81, R107, R110, R111, R406). -/
def runInsn (x : Ctx) (len : Nat) (u : Uses) (s : State) (body : State → Res) : State :=
  let n := x.core
  if !s.ready n then s
  else
    match (s.core n).tops with
    | o :: _ => if o.younger ≥ 64 then s.updCore n (fun c => { c with wait := .tiles }) else go n
    | [] => go n
where
  go (n : Nat) : State :=
    let first := (s.core n).nextTop
    let s := x.up.foldl (fun s v => match v with
      | .reg code => s.upset n (.reg code)
      | .tile t r => s.upset n (.tile t r)
      | _ => s) s.draw
    match s.fetchInsn n len with
    | (s1, some (.inl k)) =>
      let k := s1.fetchCause n k body
      s.trapInsn s1 n k.1 k.2
    | (s1, some (.inr w)) => s1.updCore n fun c => { c with wait := w }
    | (s, none) =>
      let bad := u.reads.find? fun k => (s.core n).parity.contains k
      match body s, bad with
      | .trap s1 k t, none => s.trapInsn s1 n k t
      | .trap s1 k t, some r =>
        if causeRank k < causeRank 0x32 then s.trapInsn s1 n k t else s.trapInsn s n 0x32 (BitVec.ofNat 64 r)
      | _, some r => s.trapInsn s n 0x32 (BitVec.ofNat 64 r)
      | .ok s1, none =>
        s1.updCore n fun c =>
          ({ c with arch := { c.arch with pc := c.arch.pc + BitVec.ofNat 64 len } } : Core).complete first u.writes
      | .goto s1 pc, none =>
        s1.updCore n fun c => ({ c with arch := { c.arch with pc := pc &&& ~~~3 } } : Core).complete first u.writes
      | .wait s1 w, none => s1.updCore n fun c => { c with wait := w }

/-! ### Returning (R104) -/

/-- rtx: the frame at g31 read as a load of the current level. DESIGN CHOICE (log entry 121): the read takes the 56 bytes
that rtx uses, so a fault that lies at offset 56 alone is not met. -/
def State.rtxBody (s : State) (n : Nat) (up : List Upset) (word : W32) : Res :=
  let c := s.core n
  if !c.tops.isEmpty then .wait s .tiles
  else match s.load n c.pl up ⟨false, false, false⟩ (c.arch.rg 31).toNat 56 with
    | (.trap s k t, _) => .trap s k t
    | (.wait s w, _) => .wait s w
    | (.ok s bs, _) =>
      let q := fun i => (BitVec.ofNat 64 (ofBytes ((bs.drop (8 * i)).take 8)) : W64)
      let pl := W64.fld (q 1) 1 0
      if pl = 2 ∨ (s.core n).pl < pl then .trap s 0x0D (word.setWidth 64)
      else
        let st := (q 1 &&& (fmask 23 16 ||| fmask 2 0)) ||| (c.cr nSTATUS &&& fmask 3 3)
        let s := s.updCore n fun c =>
          let a := (c.arch.setCr nSTATUS st).setG 31 (q 5)
          { c with arch := (a.setCr nSLIM (q 6 &&& fmask 63 6)).setCr nPROGRESS (q 4) }
        .goto s (q 0)

end Sys2Proof.Machine
end

