-- ==== Sys2Proof/Machine/Operands.lean ====
section
/-! DEFINITION. Operand forms: the fields of every layout in one record (R84, R85, R514), the first word that
a cause reports (R86), and the registers that an instruction reads and writes under their codes (R406). -/

namespace Sys2Proof.Machine

/-! ### Forms -/

/-- An instruction's fields whatever its layout. `bad` says that a field which must be 0 is not. -/
structure Form where
  d : Nat
  a : Nat
  b : Nat
  k : Nat
  func : Nat
  md : Nat
  imm : W64
  len : Nat
  word : W32
  bad : Bool
deriving DecidableEq, Repr

/-- Layout R. -/
def formR (maj : Nat) (f : RF) : Form :=
  { d := f.d.toNat, a := f.a.toNat, b := f.b.toNat, k := f.k.toNat, func := f.func.toNat, md := 0, imm := 0, len := 4,
    word := encR maj f, bad := false }

/-- Layout R in a scalar family: k must be 0 (R84). -/
def formRS (maj : Nat) (f : RF) : Form := { formR maj f with bad := f.k != 0 }

/-- Layout I. -/
def formI (maj : Nat) (f : IF) : Form :=
  { d := f.d.toNat, a := f.a.toNat, b := 0, k := 0, func := 0, md := 0, imm := f.imm.signExtend 64, len := 4,
    word := encI maj f, bad := false }

/-- The 64-bit layout. -/
def formL (op : Nat) (f : LF) : Form :=
  { d := f.d.toNat, a := f.a.toNat, b := f.b.toNat, k := f.k.toNat, func := 0, md := f.md.toNat, imm := f.imm.signExtend 64,
    len := 8, word := encL op f, bad := false }

/-- Layout I or the long op of the same number, in which b, k and mod must be 0 (R514). -/
def formIL (maj : Nat) : IL → Form
  | .short f => formI maj f
  | .long f => { formL maj f with bad := f.b != 0 || f.k != 0 || f.md != 0 }

/-- A branch; in the long form d, k and mod must be 0 (R514). -/
def formBL (maj : Nat) : BL → Form
  | .short f =>
    { d := 0, a := f.a.toNat, b := f.b.toNat, k := 0, func := 0, md := 0, imm := f.off.signExtend 64, len := 4,
      word := encB maj f, bad := false }
  | .long f => { formL maj f with bad := f.d != 0 || f.k != 0 || f.md != 0 }

/-- jal; in the long form d, a, b, k and mod must be 0 (R514). -/
def formJL (maj : Nat) : JL → Form
  | .short off =>
    { d := 0, a := 0, b := 0, k := 0, func := 0, md := 0, imm := off.signExtend 64, len := 4, word := encJ maj off,
      bad := false }
  | .long f => { formL maj f with bad := f.d != 0 || f.a != 0 || f.b != 0 || f.k != 0 || f.md != 0 }

/-! ### Registers by their codes (R406) -/

/-- g0 and k0 hold nothing. -/
def codeG (n : Nat) : List Nat := if n = 0 then [] else [n]
def codeF (n : Nat) : List Nat := [0x20 + n]
def codeV (n : Nat) : List Nat := [0x40 + n]
def codeK (n : Nat) : List Nat := if n = 0 then [] else [0x60 + n]
def codeRow (n : Nat) : List Nat := [0x200 + n]

/-- Codes of `r` vector registers from one on. -/
def codeVs (n r : Nat) : List Nat := (List.range r).map fun i => 0x40 + n + i

/-! ### Running a form -/

/-- Cause 0x02 of an instruction (R86). -/
def illegal (f : Form) (s : State) : Res := .trap s 0x02 (f.word.setWidth 64)

/-- Cause 0x0D of an instruction (R92). -/
def denied (f : Form) (s : State) : Res := .trap s 0x0D (f.word.setWidth 64)

/-- Run a form: a field that must be 0 and is not is illegal (R86). -/
def runForm (x : Ctx) (f : Form) (reads writes : List Nat) (s : State) (body : State → Res) : State :=
  runInsn x f.len ⟨reads, writes⟩ s fun s => if f.bad then illegal f s else body s

/-- An instruction whose only effect is on the registers of its core. -/
def runArch (x : Ctx) (f : Form) (reads writes : List Nat) (s : State) (fn : Arch → Arch) : State :=
  runForm x f reads writes s fun s => .ok (s.updCore x.core fun c => { c with arch := fn c.arch })

end Sys2Proof.Machine
end

