-- ==== Sys2Proof/Machine/Flags.lean ====
section
/-! DEFINITION. CORE_FPCSR: flags, traps and modes (R54 to R58, R242). -/

namespace Sys2Proof.Machine

/-- Rounding mode of CORE_FPCSR.RM. -/
def Core.rnd (c : Core) : Rnd := Rnd.ofRM (W64.fld (c.cr nFPCSR) 9 8)

/-- CORE_FPCSR.NOSAT. -/
def Core.nosat (c : Core) : Bool := (c.cr nFPCSR).toNat.testBit 22

/-- The flags whose trap enable is 1, in flag positions: TE_NX is bit 16 (R54). -/
def Core.traps (c : Core) : Flags := BitVec.ofNat 7 (W64.fld (c.cr nFPCSR) 20 16)

/-- Flags are merged into CORE_FPCSR. -/
def Core.orFlags (c : Core) (fl : Flags) : Core := c.setCr nFPCSR (c.cr nFPCSR ||| fl.setWidth 64)

/-- The flags that R242 counts: NV, DZ, OF. -/
def watchedFlags : Flags := 0x1C

/-- Whether a raise would set NF while tile operations are unsettled: its flags are held with the results
(R110), so the instruction waits. -/
def State.flagWait (s : State) (n : Nat) (fl : Flags) : Bool :=
  fl &&& watchedFlags != 0 && !(s.core n).tops.isEmpty && decide ((s.core n).pl ≠ 3) &&
    match (s.core n).task with
    | some t => t.q.d.watch
    | none => false

/-- Flags are raised by core `n` (R55, R242). -/
def State.raiseFlags (s : State) (n : Nat) (fl : Flags) : State :=
  if fl = 0 then s else (s.updCore n fun c => c.orFlags fl).noteFlags n fl

/-- An instruction raises flags and goes on, or traps with cause 0x06 and its destination unchanged (R56). -/
def withFlags (s : State) (n : Nat) (fl : Flags) (k : State → Res) : Res :=
  if s.flagWait n fl then .wait s .tiles
  else if fl &&& (s.core n).traps = 0 then k (s.raiseFlags n fl)
  else .trap (s.raiseFlags n fl) 0x06 (fl.setWidth 64)

/-- The stored bits of CORE_FPCSR after a write: RW fields as written, flags cleared where 1 is written, then set
where FSET says (R54, R58). -/
def fpcsrWritten (old v : W64) : W64 :=
  let rw := fmask 22 22 ||| fmask 20 16 ||| fmask 9 8
  ((v &&& rw) ||| (old &&& fmask 6 0 &&& ~~~v)) ||| BitVec.ofNat 64 (W64.fld v 30 24)

/-- A write of CORE_FPCSR: FSET never traps and counts for NF (R56, R242). -/
def State.writeFpcsr (s : State) (n : Nat) (v : W64) : State :=
  (s.updCore n fun c => c.setCr nFPCSR (fpcsrWritten (c.cr nFPCSR) v)).noteFlags n (BitVec.ofNat 7 (W64.fld v 30 24))

end Sys2Proof.Machine
end

