-- ==== Sys2Proof/Machine/Scalar.lean ====
section
/-! DEFINITION. The scalar instructions of R87 to R91 and R514, R515. -/

namespace Sys2Proof.Machine

/-! ### Integer operations (R88) -/

def minS64 : Int := -(2 ^ 63)
def maxS64 : Int := 2 ^ 63 - 1

/-- div: saturating, towards zero. -/
def divS (a b : W64) : W64 :=
  if b = 0 then (if 0 ≤ a.toInt then BitVec.ofInt 64 maxS64 else BitVec.ofInt 64 minS64)
  else if a.toInt = minS64 ∧ b.toInt = -1 then BitVec.ofInt 64 maxS64
  else BitVec.ofInt 64 (a.toInt.tdiv b.toInt)

/-- rem: the sign of a; 0 where the quotient saturates. -/
def remS (a b : W64) : W64 :=
  if b = 0 then 0
  else if a.toInt = minS64 ∧ b.toInt = -1 then 0
  else BitVec.ofInt 64 (a.toInt.tmod b.toInt)

/-- The result of a func of major 0x00, none where the func is reserved. -/
def intOp (func : Nat) (a b : W64) : Option W64 :=
  let sh := b.toNat % 64
  match func with
  | 0x00 => some (a + b)
  | 0x01 => some (a - b)
  | 0x02 => some (a &&& b)
  | 0x03 => some (a ||| b)
  | 0x04 => some (a ^^^ b)
  | 0x05 => some (a <<< sh)
  | 0x06 => some (a >>> sh)
  | 0x07 => some (a.sshiftRight sh)
  | 0x08 => some (if a.slt b then 1 else 0)
  | 0x09 => some (if a.ult b then 1 else 0)
  | 0x0A => some (a * b)
  | 0x0B => some (BitVec.ofInt 64 (a.toInt * b.toInt / 2 ^ 64))
  | 0x0C => some (BitVec.ofNat 64 (a.toNat * b.toNat / 2 ^ 64))
  | 0x0D => some (divS a b)
  | 0x0E => some (if b = 0 then BitVec.allOnes 64 else a / b)
  | 0x0F => some (remS a b)
  | 0x10 => some (if b = 0 then 0 else a % b)
  | 0x11 => some (if a.slt b then a else b)
  | 0x12 => some (if a.slt b then b else a)
  | 0x13 => some (BitVec.ofNat 64 (popCount 64 a.toNat))
  | 0x14 => some (BitVec.ofNat 64 (leadZeros 64 a.toNat))
  | 0x15 => some (BitVec.ofNat 64 (lowBit 64 a.toNat))
  | _ => none

/-- R88. In popc, b must be 0. -/
def execIntegerOps (x : Ctx) (f : RF) (s : State) : Out :=
  let F := formRS 0x00 f
  .next (runForm x F (codeG F.a ++ codeG F.b) (codeG F.d) s fun s =>
    let r := (s.core x.core).arch
    match intOp F.func (r.rg F.a) (r.rg F.b) with
    | none => illegal F s
    | some v =>
      if F.func = 0x13 ∧ F.b ≠ 0 then illegal F s
      else .ok (s.updCore x.core fun c => { c with arch := c.arch.setG F.d v }))

/-- An operation of g[a] with an immediate. -/
def immOp (maj : Nat) (fn : W64 → W64 → W64) (x : Ctx) (f : IL) (s : State) : State :=
  let F := formIL maj f
  runArch x F (codeG F.a) (codeG F.d) s fun r => r.setG F.d (fn (r.rg F.a) F.imm)

/-- R87, R514. -/
def execAddi (x : Ctx) (f : IL) (s : State) : Out := .next (immOp 0x01 (· + ·) x f s)
def execAndi (x : Ctx) (f : IL) (s : State) : Out := .next (immOp 0x02 (· &&& ·) x f s)
def execOri (x : Ctx) (f : IL) (s : State) : Out := .next (immOp 0x03 (· ||| ·) x f s)
def execXori (x : Ctx) (f : IL) (s : State) : Out := .next (immOp 0x04 (· ^^^ ·) x f s)
def execSlti (x : Ctx) (f : IL) (s : State) : Out :=
  .next (immOp 0x05 (fun a b => if a.slt b then 1 else 0) x f s)

/-- lui: a must be 0. -/
def execLui (x : Ctx) (f : IF) (s : State) : Out :=
  let F := { formI 0x06 f with bad := f.a != 0 }
  .next (runArch x F [] (codeG F.d) s fun r => r.setG F.d (F.imm <<< 16))

/-- lhi.l (R514). -/
def execLhiL (x : Ctx) (f : LF) (s : State) : Out :=
  let F := { formL 0x06 f with bad := f.b != 0 || f.k != 0 || f.md != 0 }
  .next (runArch x F (codeG F.a) (codeG F.d) s fun r =>
    r.setG F.d ((r.rg F.a &&& 0xFFFFFFFF) ||| (f.imm.setWidth 64 <<< 32)))

/-! ### Loads and stores -/

/-- Bytes of a load and whether it is sign-extended. -/
def loadSize : LoadOp → Nat × Bool
  | .ld => (8, false)
  | .lw => (4, true)
  | .lwu => (4, false)
  | .lh => (2, true)
  | .lhu => (2, false)
  | .lb => (1, true)
  | .lbu => (1, false)

def storeSize : StoreOp → Nat
  | .sd => 8
  | .sw => 4
  | .sh => 2
  | .sb => 1

/-- The address of a load or store (R87). -/
def memAddr (s : State) (n : Nat) (F : Form) : Nat := ((s.core n).arch.rg F.a + F.imm).toNat

/-- A load of `k` bytes whose value goes to the registers. -/
def loadInto (x : Ctx) (F : Form) (writes : List Nat) (k : Nat) (put : Arch → Nat → Arch) (s : State) : State :=
  runForm x F (codeG F.a) writes s fun s =>
    match s.load x.core (s.core x.core).pl x.up LdHow.scalar (memAddr s x.core F) k with
    | (.ok s bs, _) => .ok (s.updCore x.core fun c => { c with arch := put c.arch (ofBytes bs) })
    | (.trap s k t, _) => .trap s k t
    | (.wait s w, _) => .wait s w

/-- A store of the bytes that the registers give. -/
def storeFrom (x : Ctx) (F : Form) (reads : List Nat) (bytes : Arch → List Byte) (s : State) : State :=
  runForm x F (codeG F.a ++ reads) [] s fun s =>
    match s.store x.core (memAddr s x.core F) (bytes (s.core x.core).arch) StHow.plain false with
    | .ok s => .ok s
    | .trap s k t => .trap s k t
    | .wait s w => .wait s w

/-- R87: ld to lbu. -/
def execScalarLoad (x : Ctx) (op : LoadOp) (f : IL) (s : State) : Out :=
  let F := formIL (loadNumber op) f
  let k := loadSize op
  .next (loadInto x F (codeG F.d) k.1 (fun r v =>
    r.setG F.d (if k.2 then BitVec.ofInt 64 (sint (8 * k.1) v) else BitVec.ofNat 64 v)) s)

/-- R87: sd to sb. -/
def execScalarStore (x : Ctx) (op : StoreOp) (f : IL) (s : State) : Out :=
  let F := formIL (storeNumber op) f
  .next (storeFrom x F (codeG F.d) (fun r => bytesOf (storeSize op) (r.rg F.d).toNat) s)

/-- R515. -/
def execFlw (x : Ctx) (f : IL) (s : State) : Out :=
  let F := formIL 0x07 f
  .next (loadInto x F (codeF F.d) 4 (fun r v => r.setF F.d (BitVec.ofNat 64 (widenF32 v))) s)

def execFld (x : Ctx) (f : IL) (s : State) : Out :=
  let F := formIL 0x0F f
  .next (loadInto x F (codeF F.d) 8 (fun r v => r.setF F.d (BitVec.ofNat 64 v)) s)

/-- R42. -/
def execFll (x : Ctx) (f : IL) (s : State) : Out :=
  let F := formIL 0x16 f
  .next (loadInto x F (codeF F.d) 6 (fun r v => r.setF F.d (BitVec.ofNat 64 (widenLf48 v))) s)

def execFsd (x : Ctx) (f : IL) (s : State) : Out :=
  let F := formIL 0x14 f
  .next (storeFrom x F (codeF F.d) (fun r => bytesOf 8 (r.rf F.d).toNat) s)

/-- A store of a converted value: when a flag traps, nothing is stored (R515, R56). Address causes come
first (R107). -/
def storeConv (x : Ctx) (F : Form) (k : Nat) (conv : Nat → Nat × Flags) (s : State) : State :=
  runForm x F (codeG F.a ++ codeF F.d) [] s fun s =>
    let n := x.core
    let r := conv ((s.core n).arch.rf F.d).toNat
    match s.store n (memAddr s n F) (bytesOf k r.1) StHow.plain false with
    | .trap s k t => .trap s k t
    | .wait s w => .wait s w
    | .ok s1 =>
      if s.flagWait n r.2 then .wait s .tiles
      else if r.2 &&& (s.core n).traps = 0 then .ok (s1.raiseFlags n r.2)
      else .trap (s.raiseFlags n r.2) 0x06 (r.2.setWidth 64)

def execFsw (x : Ctx) (f : IL) (s : State) : Out :=
  .next (storeConv x (formIL 0x15 f) 4 (fun w => convertEnc .f64 .f32 w .rne false) s)

/-- R43. -/
def execFsl (x : Ctx) (f : IL) (s : State) : Out := .next (storeConv x (formIL 0x17 f) 6 narrowLf48 s)

/-! ### Control flow -/

/-- Whether a branch is taken (R87). -/
def brTaken : BrOp → W64 → W64 → Bool
  | .beq, a, b => a == b
  | .bne, a, b => a != b
  | .blt, a, b => a.slt b
  | .bge, a, b => !a.slt b
  | .bltu, a, b => a.ult b
  | .bgeu, a, b => !a.ult b

/-- R87, R514. -/
def execBranch (x : Ctx) (op : BrOp) (f : BL) (s : State) : Out :=
  let F := formBL (branchNumber op) f
  .next (runForm x F (codeG F.a ++ codeG F.b) [] s fun s =>
    let r := (s.core x.core).arch
    if brTaken op (r.rg F.a) (r.rg F.b) then .goto s (r.pc + 4 * F.imm) else .ok s)

/-- jal writes g1 (R87, R514). -/
def execJal (x : Ctx) (f : JL) (s : State) : Out :=
  let F := formJL 0x1E f
  .next (runForm x F [] (codeG 1) s fun s =>
    let pc := (s.core x.core).arch.pc
    .goto (s.updCore x.core fun c => { c with arch := c.arch.setG 1 (pc + BitVec.ofNat 64 F.len) }) (pc + 4 * F.imm))

/-- The target is read before g[d] is written. -/
def execJalr (x : Ctx) (f : IL) (s : State) : Out :=
  let F := formIL 0x1F f
  .next (runForm x F (codeG F.a) (codeG F.d) s fun s =>
    let r := (s.core x.core).arch
    .goto (s.updCore x.core fun c => { c with arch := c.arch.setG F.d (r.pc + BitVec.ofNat 64 F.len) }) (r.rg F.a + F.imm))

/-! ### FP64 operations (R89) -/

/-- fcvt.i64.f64: nearest-even, saturating with NV; NaN gives 0 with NV (R61). -/
def cvtI64 (w : Nat) : W64 × Flags :=
  match Fmt.f64.value w with
  | .nan => (0, flagNV)
  | .inf neg => (BitVec.ofInt 64 (if neg then minS64 else maxS64), flagNV)
  | .fin neg num exp =>
    let r := roundAt neg num exp 0 .rne
    let i : Int := if neg then -(r.1 : Int) else r.1
    if i > maxS64 then (BitVec.ofInt 64 maxS64, flagNV)
    else if i < minS64 then (BitVec.ofInt 64 minS64, flagNV)
    else (BitVec.ofInt 64 i, flagIf r.2 flagNX)

/-- fcvt.f64.i64. -/
def cvtF64 (g : W64) : W64 × Flags :=
  let r := Fmt.f64.convert (.fin (decide (g.toInt < 0)) g.toInt.natAbs 0) false .rne false
  (BitVec.ofNat 64 r.1, r.2)

/-- A result of R89: for an f register or for a g register. -/
inductive FpRes where
  | toF (v : W64) (fl : Flags)
  | toG (v : W64) (fl : Flags)

/-- A func of major 0x20 on g[a], f[a], f[b] and the old f[d]; none where it is reserved. -/
def fpOp (func : Nat) (ga fa fb fd : W64) : Option FpRes :=
  let a := fa.toNat
  let b := fb.toNat
  let f := fun (r : Nat × Flags) => some (FpRes.toF (BitVec.ofNat 64 r.1) r.2)
  let g := fun (r : Bool × Flags) => some (FpRes.toG (BitVec.ofNat 64 (b1 r.1)) r.2)
  match func with
  | 0x00 => f (fpAdd .f64 .rne a b)
  | 0x01 => f (fpSub .f64 .rne a b)
  | 0x02 => f (fpMul .f64 .rne a b)
  | 0x03 => f (fpDiv .f64 .rne a b)
  | 0x04 => f (fpSqrt .f64 .rne a)
  | 0x05 => f (fpFma .f64 .rne false fd.toNat a b)
  | 0x06 => f (fpMin .f64 a b)
  | 0x07 => f (fpMax .f64 a b)
  | 0x08 => g (fpEq .f64 a b)
  | 0x09 => g (fpLt .f64 a b)
  | 0x0A => g (fpLe .f64 a b)
  | 0x0B => some (.toG (cvtI64 a).1 (cvtI64 a).2)
  | 0x0C => some (.toF (cvtF64 ga).1 (cvtF64 ga).2)
  | 0x0D => some (.toG fa 0)
  | 0x0E => some (.toF ga 0)
  | _ => none

/-- Registers that a func of major 0x20 reads and writes. -/
def fpUses (F : Form) : List Nat × List Nat :=
  let fn := F.func
  let toG := decide (0x08 ≤ fn ∧ fn ≤ 0x0B) || fn == 0x0D
  (if fn = 0x0C ∨ fn = 0x0E then codeG F.a
   else codeF F.a ++ (if fn < 4 ∨ (5 ≤ fn ∧ fn ≤ 0x0A) then codeF F.b else []) ++ (if fn = 5 then codeF F.d else []),
   if toG then codeG F.d else codeF F.d)

/-- R89, R51, R55. In fsqrt, b must be 0. -/
def execFpOps (x : Ctx) (f : RF) (s : State) : Out :=
  let F := formRS 0x20 f
  let n := x.core
  .next (runForm x F (fpUses F).1 (fpUses F).2 s fun s =>
    let r := (s.core n).arch
    match fpOp F.func (r.rg F.a) (r.rf F.a) (r.rf F.b) (r.rf F.d) with
    | none => illegal F s
    | some res =>
      if F.func = 0x04 ∧ F.b ≠ 0 then illegal F s
      else match res with
        | .toF v fl => withFlags s n fl fun s => .ok (s.updCore n fun c => { c with arch := c.arch.setF F.d v })
        | .toG v fl => withFlags s n fl fun s => .ok (s.updCore n fun c => { c with arch := c.arch.setG F.d v }))

/-! ### System operations (R90) -/

/-- The form of a func of major 0x21. -/
def formSys (func : Nat) : Form := formR 0x21 ⟨0, 0, 0, 0, BitVec.ofNat 8 func⟩

/-- trap.env raises 0x0E at its own pc, delivered even under SPEC (R90, R246). -/
def execTrapEnv (x : Ctx) (s : State) : Out := .next (runForm x (formSys 0) [] [] s fun s => .trap s 0x0E 0)

/-- trap.bp raises 0x0F. -/
def execTrapBp (x : Ctx) (s : State) : Out := .next (runForm x (formSys 1) [] [] s fun s => .trap s 0x0F 0)

/-- R104. -/
def execRtx (x : Ctx) (s : State) : Out :=
  .next (runForm x (formSys 2) (codeG 31) [] s fun s => s.rtxBody x.core x.up (formSys 2).word)

/-- R90, R114, R346. -/
def execFence (x : Ctx) (s : State) : Out :=
  .next (runForm x (formSys 3) [] [] s fun s =>
    if !(s.core x.core).tops.isEmpty then .wait s .tiles
    else if s.storesOut x.core then .wait s .stores
    else .ok s)

/-- PCTAG of CORE_PROGRESS for a pc (R115). -/
def pcTag (pc : W64) : Nat := W64.fld pc 29 2

/-- Whether CORE_PROGRESS belongs to the instruction at the pc, of this kind (R117); its INDEX. -/
def Core.resumeAt (c : Core) (kind : Nat) : Option Nat :=
  let p := c.cr nPROGRESS
  if p.toNat.testBit 63 ∧ W64.fld p 62 60 = kind ∧ W64.fld p 59 32 = pcTag c.arch.pc then some (W64.fld p 31 0) else none

/-- CORE_PROGRESS of an interrupted instruction (R115, R116). -/
def Core.setProgress (c : Core) (kind index : Nat) : Core :=
  c.setCr nPROGRESS (BitVec.ofNat 64 (2 ^ 63 + kind * 2 ^ 60 + pcTag c.arch.pc * 2 ^ 32 + index % 2 ^ 32))

/-- fence.e (R90, R117, R323, R346). -/
def execFenceE (x : Ctx) (s : State) : Out :=
  let n := x.core
  .next (runForm x (formSys 4) [] [] s fun s =>
    let c := s.core n
    let fin := s.updCore n Core.clearProgress
    let epoch := match c.wait with
      | .fenceE e => e
      | _ => s.tb.epoch
    let resumed := match c.wait, c.resumeAt 3 with
      | .fenceE _, _ => false
      | _, some i => decide (s.tb.epoch.toNat % 2 ^ 32 ≠ i) && !c.outAtBoundary
      | _, none => false
    if !c.tops.isEmpty then .wait s .tiles
    else if resumed then .ok fin
    else if s.tb.mode = .stopped && !s.storesOut n then .ok fin
    else .wait s (.fenceE epoch))

/-! ### Atomics (R91) -/

def execAtomics (x : Ctx) (f : RF) (s : State) : Out :=
  let F := formRS 0x24 f
  let n := x.core
  let op := F.func % 16
  let w := if F.func < 128 then 32 else 64
  .next (runForm x F (codeG F.a ++ codeG F.b ++ (if op = 7 then codeG F.d else [])) (codeG F.d) s fun s =>
    let r := (s.core n).arch
    if F.func / 16 % 8 ≠ 0 ∨ op > 7 then illegal F s
    else match s.atomic n (r.rg F.a).toNat op w ((r.rg F.b).toNat % 2 ^ w) ((r.rg F.d).toNat % 2 ^ w) with
      | .ok s old =>
        .ok (s.updCore n fun c => { c with arch := c.arch.setG F.d (BitVec.ofInt 64 (if w = 32 then sint 32 old else (old : Int))) })
      | .trap s k t => .trap s k t
      | .wait s w => .wait s w)

/-! ### Instructions that decode to nothing (R86) -/

/-- Cause 0x02 with the first word. A first word with bits [31:29] 0b111 has a second (R83). -/
def execIllegalInstruction (x : Ctx) (w0 _w1 : W32) (s : State) : Out :=
  .next (runInsn x (if w0.toNat >>> 29 = 7 then 8 else 4) ⟨[], []⟩ s fun s => .trap s 0x02 (w0.setWidth 64))

end Sys2Proof.Machine
end

