-- ==== Sys2Proof/Machine/Task.lean ====
section
/-! DEFINITION. Taking and ending tasks (R222 to R230, R243), and commits that end (R244). -/

namespace Sys2Proof.Machine

/-! ### Which task a core takes -/

/-- What tasks of a version hold for a sheaf. -/
def State.heldAdds (s : State) (v n : Nat) : Nat :=
  (s.ver v).adds.foldl (fun k p => if p.1 = n then k + p.2 else k) 0

/-- A sheaf as a task sees it (R226). -/
def State.sheafFor (s : State) (t : QTask) (n : Nat) : Nat :=
  min 0xFFFFFFFF ((s.sheaf n).toNat + if t.spec then s.heldAdds t.d.version n else 0)

/-- Whether a placed task is eligible (R227, R243). -/
def State.eligible (s : State) (t : QTask) : Bool :=
  (t.d.waits.all fun w => decide (w.2 ≤ s.sheafFor t w.1)) &&
    (t.d.slot == 0xFF || !(s.live.any fun l => l.2 == t.d.slot && decide (l.1 < t.seq))) &&
    (!t.spec ||
      let x := s.ver t.d.version
      (x.state == .opened || x.state == .closed) && (x.cap == 0 || decide ((s.runners t.d.version).length < x.cap)))

/-- The queues that a core searches, in order, each with the scopes it takes there (R230). -/
def Core.searchOrder (c : Core) (n : Nat) : List (Nat × List (BitVec 2)) :=
  let cl := coreCluster n
  let die := coreDie n
  let k := cl % 12
  let tctl := (c.cr 0x043).toNat
  let ring := fun (d from_ cnt : Nat) => (List.range cnt).map fun i => 12 * d + (from_ + i) % 12
  [(cl, [0, 1, 2])] ++
    (if tctl.testBit 0 then (ring die (k + 1) 11).map fun q => (q, ([1, 2] : List (BitVec 2))) else []) ++
    (if tctl.testBit 1 then (ring (1 - die) k 12).map fun q => (q, ([2] : List (BitVec 2))) else [])

/-- The first task that a core finds: its queue and the task (R230). Queues hold tasks in placement order. -/
def State.findTask (s : State) (n : Nat) : Option (Nat × QTask) :=
  ((s.core n).searchOrder n).findSome? fun q =>
    ((s.queue q.1).find? fun t => q.2.contains t.d.scope && s.eligible t).map fun t => (q.1, t)

/-! ### Beginning -/

/-- The registers of a core that begins a task (R59, R127, R156, R222). -/
def Arch.beginTask (a : Arch) (d : TaskDesc) : Arch :=
  let a := { a with v := [], k := [], sorrel := [], tiles := [] }
  let a := ((a.setCr nFPCSR 0).setCr 0x002 d.seed).setCr 0x003 0
  let a := (((((a.setCr nVCTRL 0).setCr 0x201 0).setCr 0x204 0).setCr 0x205 0).setCr 0x206 0).setCr 0x207 0
  let a := a.setCr nMXCTRL (W64.setFld (a.cr nMXCTRL) 1 0 d.check.toNat)
  a.setCr nSTATUS (W64.setFld (a.cr nSTATUS) 3 3 (b1 d.spec))

/-- No operand cache holds a tile of a core any longer (R168). -/
def State.dropHeldB (s : State) (n : Nat) : State := s.dropB n fun _ => true

/-- A read of CORE_TTAKE completes with a value (R222). -/
def Core.endTake (c : Core) (d : BitVec 5) (v : W64) : Core :=
  ({ c with wait := .none, remote := [],
            arch := { c.arch.setG d.toNat v with pc := c.arch.pc + 4 },
            parity := c.parity.filter fun k => !(codeG d.toNat).contains k } : Core).countInst

/-- Core `n` claims a task of a queue and begins it, as one step with its read (R222, R223). -/
def State.beginTask (s : State) (n q : Nat) (t : QTask) (d : BitVec 5) : State :=
  let desc := { t.d with spec := t.spec }
  let s := s.setQueue q ((s.queue q).filter fun x => x.seq != t.seq)
  let s := if q = coreCluster n then s
    else s.countCore n (if q / 12 = coreDie n then 0x58 else 0x59) 1
  ((s.countDev 0xF3 0 1).dropHeldB n).updCore n fun c =>
    let c : Core := { c with arch := c.arch.beginTask desc, task := some ⟨t, 0, false⟩,
                             parity := c.parity.filter fun k => k < 0x40 }
    c.endTake d (t.d.addr ||| 1)

/-! ### Ending -/

/-- A task ends with a status (R224): its signals, its report, and the core at a task boundary. -/
def State.endTask (s : State) (n : Nat) (status : Byte) : State :=
  match (s.core n).task with
  | none => s
  | some t =>
    let d := t.q.d
    let r : TaskReport := ⟨t.q.seq, n, d.taskid, status, t.late, d.addr⟩
    -- The task was discarded while its end waited: it counts as having taken its delivery (R245, R59).
    let dropped := t.q.spec && (s.ver d.version).state == .discarding
    let s := s.updCore n fun c =>
      let c : Core := { c.setSpec false with task := none }
      let c := if dropped then c.mapArch fun a => a.setCr nFPCSR t.fpcsr else c
      ({ c.dropHeldL1 with wait := .none, arch := { c.arch with pc := c.arch.pc + 4 } } : Core).countInst
    let s := s.endLive t.q.seq
    let v := d.version
    let s :=
      if t.q.spec then
        if (s.ver v).undecided then
          s.updVer v fun x => { x with adds := x.adds ++ d.sigs, ends := x.ends ++ [r] }
        else if dropped then
          let s := s.reportDiscarded n d
          if (s.runners v).isEmpty then s.updVer v Version.freed else s
        else s
      else (d.sigs.foldl (fun s g => s.addSheaf g.1 g.2) s).reportEnd none r
    State.guards Config.versions (s.taskBoundary n)

/-! ### Commands -/

/-- R222: the read returns zero at once while a task is active, and otherwise begins searching. -/
def State.ttakeBody (s : State) (n : Nat) (d : BitVec 5) : Res :=
  let c := s.core n
  if c.active then .ok (s.updCore n fun c => { c with arch := c.arch.setG d.toNat 0 })
  else if !c.tops.isEmpty then .wait s .tiles
  else .wait s (.take d)

/-- R224: a write while no task is active is ignored; otherwise it waits for the task's end. -/
def State.tdoneBody (s : State) (n : Nat) (v : W64) : Res :=
  if !(s.core n).active then .ok s else .wait s (.tdone (v.setWidth 8))

/-- R223: the searching read claims an eligible task, or ends with zero for a pending cause. -/
def execTaskTake (core : Nat) (s : State) : Out :=
  let c := s.core core
  if core ≥ Config.cores || !c.runs then .next s
  else match c.wait with
    | .take d =>
      if c.ie && c.pend.any then .next (s.updCore core fun c => c.endTake d 0)
      else if c.noTake then .next s
      else match s.findTask core with
        | none => .next s
        | some (q, t) => .next (s.beginTask core q t d)
    | _ => .next s

/-- R224: once the tile work and the stores of the task are complete, it ends. -/
def execTaskEnd (core : Nat) (s : State) : Out :=
  let c := s.core core
  if core ≥ Config.cores || !c.runs || s.asyncDue core then .next s
  else match c.wait with
    | .tdone st => if !c.tops.isEmpty || s.storesOut core then .next s else .next (s.endTask core st)
    | _ => .next s

/-- The held remote stores of a committed version leave one by one while trackers are free (R244). -/
def State.sendHeld (v : Nat) : Nat → State → State
  | 0, s => s
  | k + 1, s =>
    match (s.ver v).remote with
    | [] => s
    | r :: t =>
      match s.sendStore (.version v r.core r.task r.entry.pl) { r.entry with ver := none } (s.ver v).made with
      | (s', true) => State.sendHeld v k (s'.updVer v fun x => { x with remote := t })
      | (_, false) => s

/-- R244: once they are sent, the version becomes FREE. -/
def execRemoteStoresSent (version : Nat) (s : State) : Out :=
  if !(s.ver version).committing then .next s
  else
    let s := State.sendHeld version ((s.ver version).remote.length + 1) s
    .next (if (s.ver version).remote.isEmpty then s.updVer version Version.freed else s).flushEnds

end Sys2Proof.Machine
end

