-- ==== Sys2Proof/Machine/CoreRegs.lean ====
section
/-! DEFINITION. The core registers (R93, R135, R170, R215, R221, R274, R365, R502): creg.rd and creg.wr and the
commands that are writes of one register; and the steps of a core that no instruction makes: asynchronous
delivery, the drain of stores, late store errors, the switch of MISS_MODE, wedge messages. -/

namespace Sys2Proof.Machine

/-! ### Numbers and levels -/

/-- The levels from which a register is read and written; none where it reads zero or ignores writes. -/
structure CregLvl where
  rd : Option Nat
  wr : Option Nat
deriving DecidableEq, Repr

/-- The assigned numbers (R93); none for a number that no chapter assigns. -/
def cregLvl (n : Nat) : Option CregLvl :=
  if n = 0x000 then some ⟨some 0, none⟩
  else if n = 0x001 ∨ n = 0x002 ∨ n = 0x003 then some ⟨some 0, some 0⟩
  else if n = 0x010 then some ⟨some 0, some 1⟩
  else if n = 0x011 ∨ n = 0x012 then some ⟨some 1, some 1⟩
  else if n = 0x013 ∨ n = 0x018 then some ⟨some 0, some 1⟩
  else if n = 0x014 then some ⟨some 1, none⟩
  else if n = 0x020 ∨ n = 0x028 ∨ n = 0x030 ∨ n = 0x043 then some ⟨some 1, some 1⟩
  else if n = 0x021 then some ⟨some 1, some 3⟩
  else if n = 0x022 ∨ n = 0x023 then some ⟨some 3, some 3⟩
  else if 0x038 ≤ n ∧ n ≤ 0x03F then some ⟨some 1, none⟩
  else if n = 0x040 then some ⟨some 1, none⟩
  else if n = 0x041 then some ⟨none, some 1⟩
  else if n = 0x042 then some ⟨some 0, none⟩
  else if 0x050 ≤ n ∧ n ≤ 0x06F then some ⟨some 0, none⟩
  else if n = 0x100 then some ⟨some 0, some 0⟩
  else if n = 0x101 then some ⟨none, some 0⟩
  else if 0x108 ≤ n ∧ n ≤ 0x10F then some ⟨some 0, none⟩
  else if n = 0x200 ∨ n = 0x201 then some ⟨some 0, none⟩
  else if 0x204 ≤ n ∧ n ≤ 0x207 then some ⟨some 0, some 0⟩
  else if 0x210 ≤ n ∧ n ≤ 0x21F then some ⟨some 0, none⟩
  else if n = 0x300 then some ⟨some 0, some 1⟩
  else if n = 0x301 then some ⟨some 0, none⟩
  else if n = 0x400 then some ⟨some 0, some 1⟩
  else if n = 0x500 ∨ (0x508 ≤ n ∧ n ≤ 0x517) ∨ n = 0x520 ∨ n = 0x521 then some ⟨some 0, some 1⟩
  else if 0x530 ≤ n ∧ n ≤ 0x539 then some ⟨some 0, none⟩
  else none

/-! ### Values -/

/-- CORE_ID (R30, R31). -/
def State.coreId (s : State) (n : Nat) : W64 :=
  let ok := (List.range 8).foldl (fun m i => if (s.eng (8 * n + i)).ok then m + 2 ^ i else m) 0
  BitVec.ofNat 64 (ok * 2 ^ 32 + coreDie n * 2 ^ 13 + coreCluster n % 12 * 2 ^ 9 + coreCic n * 2 ^ 7 + n)

/-- CORE_PEND (R108). -/
def Pend.word (p : Pend) : W64 :=
  BitVec.ofNat 64 (b1 p.rstore * 16 + b1 p.verdict * 8 + b1 p.msg * 4 + b1 p.epoch * 2 + b1 p.lse)

/-- CORE_LSE_LOGi (R112). -/
def Core.lseLog (c : Core) (i : Nat) : W64 :=
  match c.lse[i]? with
  | some e => (e.sector &&& ~~~31) ||| BitVec.ofNat 64 (16 + e.pl.toNat * 4 + e.kind.toNat)
  | none => 0

/-- CORE_TASK (R221). -/
def Core.taskWord (c : Core) : W64 :=
  match c.task with
  | some t =>
    BitVec.ofNat 64 (2 ^ 63 + b1 c.spec * 2 ^ 44 + t.q.d.version % 16 * 2 ^ 40 + t.q.d.slot % 256 * 2 ^ 32 + t.q.d.taskid.toNat)
  | none => 0

/-- VEC_SVALIDj (R135). -/
def Arch.svalid (a : Arch) (j : Nat) : W64 :=
  BitVec.ofNat 64 ((List.range 64).foldl (fun m i => if (Tab.get none a.sorrel (64 * j + i)).isSome then m + 2 ^ i else m) 0)

/-- TILE_STAT (R171). -/
def Arch.tileStat (a : Arch) : W64 :=
  BitVec.ofNat 64 ((List.range 16).foldl (fun m i =>
    let t := a.tile i
    m + b1 t.valid * 2 ^ i + b1 (t.poison != 0) * 2 ^ (16 + i)) 0)

/-- Whether an engine runs anything, and an operation of another core than its own. -/
def Engine.busy (e : Engine) : Bool := e.run0.isSome || e.run1.isSome

def Engine.lent (e : Engine) (n : Nat) : Bool :=
  let other := fun (r : Option EngRun) => match r with
    | some r => r.core != n
    | none => false
  other e.run0 || other e.run1

/-- MX_STAT (R216). -/
def State.mxStat (s : State) (n : Nat) : W64 :=
  let m := (List.range 8).foldl (fun (m : Nat) i =>
    let e := s.eng (8 * n + i)
    m + b1 e.busy * 2 ^ i + b1 (e.lent n) * 2 ^ (8 + i)) 0
  BitVec.ofNat 64 (min 31 (s.core n).tops.length * 2 ^ 16 + m)

/-- What a register reads as. -/
def State.cregRead (s : State) (n num : Nat) : W64 :=
  let c := s.core n
  if num = 0x000 then s.coreId n
  else if num = 0x014 then c.pend.word
  else if num = 0x030 then BitVec.ofNat 64 (min 255 c.lost * 256 + min 15 c.lse.length)
  else if 0x038 ≤ num ∧ num ≤ 0x03F then c.lseLog (num - 0x038)
  else if num = 0x041 ∨ num = 0x101 then 0
  else if num = 0x042 then c.taskWord
  else if 0x050 ≤ num ∧ num ≤ 0x05F then (s.stepSlot (num - 0x050)).cur
  else if 0x060 ≤ num ∧ num ≤ 0x06F then (s.stepSlot (num - 0x060)).prev
  else if 0x108 ≤ num ∧ num ≤ 0x10F then c.arch.svalid (num - 0x108)
  else if num = 0x200 then c.arch.tileStat
  else if 0x210 ≤ num ∧ num ≤ 0x21F then (c.arch.tile (num - 0x210)).cfg
  else if num = 0x301 then s.mxStat n
  else c.cr num

/-! ### Writes -/

/-- RW bits of the registers without an action of their own. -/
def cregRw (num : Nat) : W64 :=
  if num = 0x002 ∨ num = 0x003 ∨ num = 0x012 ∨ num = 0x013 then fmask 63 0
  else if num = 0x010 then fmask 2 2
  else if num = 0x011 then fmask 63 63 ||| fmask 27 16 ||| fmask 14 8 ||| fmask 6 0
  else if num = 0x018 ∨ num = 0x023 then fmask 63 6
  else if 0x020 ≤ num ∧ num ≤ 0x022 then fmask 46 12
  else if num = 0x043 then fmask 1 0
  else if 0x204 ≤ num ∧ num ≤ 0x207 then fmask 23 16 ||| fmask 8 0
  else if num = 0x300 then fmask 10 8 ||| fmask 1 0
  else if 0x508 ≤ num ∧ num ≤ 0x50F then fmask 22 20 ||| fmask 18 16 ||| fmask 7 0
  else if (0x510 ≤ num ∧ num ≤ 0x517) ∨ num = 0x520 ∨ num = 0x521 then fmask 63 0
  else 0

/-- VEC_CTRL as written: VL at most 8,192 (R122). -/
def vecCtrlWritten (v : W64) : W64 :=
  BitVec.ofNat 64 (min 8192 (W64.fld v 31 16) * 65536 + W64.fld v 5 4 * 16 + W64.fld v 0 0)

/-- A written MISS_MODE is in effect; forerunner mode has no stream prefetch (R271). -/
def Core.setMissMode (c : Core) (b : Bool) : Core :=
  { c.setCr nL1CTRL (W64.setFld (c.cr nL1CTRL) 0 0 (b1 b)) with
    missMode := none, pfWait := if b then c.pfWait else [] }

/-- L1_CTRL (R271, R274): the prefetch fields wait for the core's older stores, misses and prefetches; MISS_MODE for the
misses that are outstanding now. -/
def State.writeL1 (s : State) (n : Nat) (v : W64) : State :=
  (s.updCore n fun c =>
    let b := v.toNat.testBit 0
    let out := c.l1Miss.map fun m => m.line
    let c := { c with l1Pend := some (v, out ++ c.pfWait.map fun (w : PfWait) => w.line) }
    if out.isEmpty then c.setMissMode b else { c with missMode := some (b, out) }).settleL1 n

/-- PERF_CTL: CLR zeroes the counters (R502). -/
def Core.writePerfCtl (c : Core) (v : W64) : Core :=
  let c := c.setCr 0x500 (BitVec.ofNat 64 (W64.fld v 0 0))
  if v.toNat.testBit 1 then
    (List.range 8).foldl (fun c i => c.setCr (0x510 + i) 0) ((c.setCr 0x520 0).setCr 0x521 0)
  else c

/-- A write that takes effect at once. -/
def State.cregWrite (s : State) (n num : Nat) (v : W64) : State :=
  if num = 0x001 then s.writeFpcsr n v
  else if num = 0x400 then s.writeL1 n v
  else s.updCore n fun c =>
    if num = 0x028 then { c.setCr nPTB (v &&& (fmask 46 12 ||| fmask 0 0)) with tlb := [] }
    else if num = 0x030 then if v.toNat.testBit 63 then { c with lse := [], lost := 0 } else c
    else if num = 0x100 then c.setCr nVCTRL (vecCtrlWritten v)
    else if num = 0x101 then
      if v.toNat.testBit 0 then
        { c with arch := { c.arch with sorrel := [] }, parity := c.parity.filter fun k => k < 0x200 }
      else c
    else if num = 0x500 then c.writePerfCtl v
    else
      let m := cregRw num
      if m = 0 then c else c.setCr num ((c.cr num &&& ~~~m) ||| (v &&& m))

/-! ### Instructions -/

/-- creg.rd of a register number into g[d] (R93, R57, R173, R222). -/
def State.cregRdBody (s : State) (n : Nat) (F : Form) (d : BitVec 5) (num : Nat) : Res :=
  let c := s.core n
  match cregLvl num with
  | none => illegal F s
  | some l =>
    if (match l.rd with
      | some lv => decide (c.pl < lv)
      | none => false) then denied F s
    else if num = 0x040 then s.ttakeBody n d
    else if (num = 0x001 ∨ (0x200 ≤ num ∧ num < 0x300)) ∧ !c.tops.isEmpty then .wait s .tiles
    else
      let s := if num = 0x400 then s.settleL1 n else s
      let v := s.cregRead n num
      .ok (s.updCore n fun c => { c with arch := c.arch.setG d.toNat v })

/-- creg.wr of a register number (R93, R110). -/
def State.cregWrBody (s : State) (n : Nat) (F : Form) (num : Nat) (v : W64) : Res :=
  let c := s.core n
  match cregLvl num with
  | none => illegal F s
  | some l =>
    match l.wr with
    | none => if !c.tops.isEmpty then .wait s .tiles else .ok s
    | some lv =>
      if c.pl < lv then denied F s
      else if !c.tops.isEmpty then .wait s .tiles
      else if num = 0x041 then s.tdoneBody n v
      -- No prefetch may use a translation that the write removes (R254).
      else if num = 0x028 && !c.pfAddrs.isEmpty then .wait s .miss
      else .ok (s.cregWrite n num v)

/-- Form of a creg.rd or creg.wr: imm[15:12] must be 0. -/
def formCreg (maj : Nat) (f : IF) (z : Bool) : Form :=
  { formI maj f with bad := z || decide (f.imm.toNat ≥ 0x1000) }

/-- creg.rd: a must be 0 (R87). -/
def execCregRd (x : Ctx) (f : IF) (s : State) : Out :=
  let F := formCreg 0x22 f (f.a != 0)
  .next (runForm x F [] (codeG F.d) s fun s => s.cregRdBody x.core F f.d (f.imm.toNat % 4096))

/-- creg.wr: d must be 0 (R87). -/
def execCregWr (x : Ctx) (f : IF) (s : State) : Out :=
  let F := formCreg 0x23 f (f.d != 0)
  .next (runForm x F (codeG F.a) [] s fun s =>
    s.cregWrBody x.core F (f.imm.toNat % 4096) ((s.core x.core).arch.rg F.a))

/-- creg.wr of a given register from g[a]. -/
def cregWrOf (x : Ctx) (num : Nat) (a : BitVec 5) (s : State) : State :=
  let F := formI 0x23 ⟨0, a, BitVec.ofNat 16 num⟩
  runForm x F (codeG F.a) [] s fun s => s.cregWrBody x.core F num ((s.core x.core).arch.rg F.a)

/-- R54, R56, R58: creg.wr of CORE_FPCSR with FSET bits. -/
def execFset (x : Ctx) (a : BitVec 5) (s : State) : Out := .next (cregWrOf x 0x001 a s)

/-- R113: creg.wr of CORE_LSE_CTL. -/
def execLseClr (x : Ctx) (a : BitVec 5) (s : State) : Out := .next (cregWrOf x 0x030 a s)

/-- R135: creg.wr of VEC_SCTL. -/
def execSorrelClr (x : Ctx) (a : BitVec 5) (s : State) : Out := .next (cregWrOf x 0x101 a s)

/-- R95, R254: creg.wr of CORE_PTB removes the core's translations. -/
def execPtbWrite (x : Ctx) (a : BitVec 5) (s : State) : Out := .next (cregWrOf x 0x028 a s)

/-- R274: creg.wr of L1_CTRL. -/
def execL1CtrlWrite (x : Ctx) (a : BitVec 5) (s : State) : Out := .next (cregWrOf x 0x400 a s)

/-- R224: creg.wr of CORE_TDONE. -/
def execTdoneWrite (x : Ctx) (a : BitVec 5) (s : State) : Out := .next (cregWrOf x 0x041 a s)

/-- R222: creg.rd of CORE_TTAKE. -/
def execTtakeRead (x : Ctx) (d : BitVec 5) (s : State) : Out :=
  let F := formI 0x22 ⟨d, 0, 0x040⟩
  .next (runForm x F [] (codeG F.d) s fun s => s.cregRdBody x.core F d 0x040)

/-- R502, R508: CLR of PERF_CTL by creg.wr, or of PERF_DCTL by a register write. -/
def execPerfClr (t : PerfTarget) (s : State) : Out :=
  match t with
  | .core x a => .next (cregWrOf x 0x500 a s)
  | .device val => .next (s.writeReg wPERF (val ||| 2))

/-! ### Steps of a core -/

/-- R271: a written MISS_MODE takes effect once the misses outstanding at the write are filled. -/
def execMissModeSwitch (core : Nat) (s : State) : Out :=
  if core ≥ Config.cores then .next s
  else match (s.core core).missMode with
    | some (b, []) =>
      .next ((s.updCore core fun c => c.setMissMode b).settleL1 core)
    | _ => .next s

/-- R257, R405: an entry of the store buffer leaves it. -/
def execStoreDrain (core idx : Nat) (err : DrainErr) (s : State) : Out :=
  if core ≥ Config.cores then .next s else .next ((s.drain core idx err).settleL1 core)

/-- R112, R413: a retired store meets a bus error. -/
def execLateStoreError (core idx : Nat) (s : State) : Out :=
  if core ≥ Config.cores then .next s else .next ((s.drain core idx .path).settleL1 core)

/-- R103, R397: firmware takes a core's wedge message and reports the lost task and the wedged core. -/
def execWedged (core : Nat) (s : State) : Out :=
  match s.ctl.wedges.find? fun m => m.core == core with
  | none => .next s
  | some m =>
    if s.ctl.stalled then .next s
    else
      let s : State := { s with ctl := { s.ctl with wedges := s.ctl.wedges.filter fun w => w.core != core } }
      let s := match m.task with
        | some id => s.report 0x03 core id (BitVec.ofNat 64 m.cause) m.tval
        | none => s
      .next (s.report 0x0A core 0 (BitVec.ofNat 64 m.cause) m.tval)

/-! ### Asynchronous delivery (R109, R448) -/

/-- Firmware on a core that has not started the runtime takes cause 0x21 itself (R448). -/
def Core.fwTakes (c : Core) : Bool := c.pl == 3 && !c.started && c.pend.msg

/-- RUNTIME_START (R448), at message 0; any other message changes nothing that the spec names. -/
def State.fwMessage (s : State) (n : Nat) : State :=
  let m := (s.core n).pend.msgMask
  s.updCore n fun c =>
    let c : Core := { c with pend := { c.pend with msg := false, msgMask := 0 } }
    if !m.toNat.testBit 0 then c
    else
      let a := c.arch
      let a := (a.setCr 0x021 (s.reg (wSEC + 0x48) &&& fmask 46 12)).setCr nPTB (s.reg (wSEC + 0x50) &&& (fmask 46 12 ||| fmask 0 0))
      let st := W64.setFld (W64.setFld (W64.setFld (a.cr nSTATUS) 23 16 0) 2 2 0) 1 0 1
      let a := ((a.setCr nSTATUS st).setCr nSLIM 0).setG 31 0
      { c with arch := { a with pc := s.reg (wSEC + 0x40) &&& ~~~3 }, tlb := [], started := true, wait := .none, remote := [],
               parity := c.parity.filter fun k => k != 31 }

/-- The waiting instruction gives way: a searching read ends with zero (R222), a fence.e keeps the epoch of its
issue in CORE_PROGRESS (R115, R116). -/
def Core.giveWay (c : Core) : Core :=
  match c.wait with
  | .take d => c.endTake d 0
  | .fenceE e => { c.setProgress 3 e.toNat with wait := .none }
  | .delivery => c
  | _ => { c with wait := .none }

/-- R109: the next pending cause is delivered at an instruction boundary, once older tile work has settled. -/
def execAsyncDelivery (core : Nat) (s : State) : Out :=
  let c := s.core core
  if core ≥ Config.cores || !c.runs || !c.tops.isEmpty || s.midRemote core then .next s
  else if s.asyncDue core then .next ((s.draw.updCore core Core.giveWay).nextAsync core)
  else if c.fwTakes then .next ((s.updCore core Core.giveWay).fwMessage core)
  else .next s

end Sys2Proof.Machine
end

