-- ==== Sys2Proof/Machine/Cache.lean ====
section
/-! DEFINITION. The cache family (R278 to R281), line fills (R256, R270 to R272) and the lines of a Swath
operation (R284 to R286). -/

namespace Sys2Proof.Machine

/-! ### The cache family -/

/-- The form of a cache instruction: d, b and k are 0, and a where no address is taken (R278). -/
def formCache (f : RF) (func : Nat) (addr : Bool) : Form :=
  { formR 0x32 { f with func := BitVec.ofNat 8 func } with
    bad := f.d != 0 || f.b != 0 || f.k != 0 || (!addr && f.a != 0) }

/-- cache.dead on a local line is one entry of the store buffer; elsewhere it is a store of zeros (R279). -/
def State.deadBody (s : State) (n va : Nat) : Res :=
  let line := va / 128 * 128
  let ans := fun (r : St) => match r with
    | .ok s => Res.ok s
    | .trap s k t => .trap s k t
    | .wait s w => .wait s w
  match s.span n .store (s.core n).pl line 128 with
  | (s1, p :: _, []) =>
    match p.place with
    | .mem pa =>
      let c := s1.core n
      let e : SbEntry := { storeEntry c p pa [] false with mask := BitVec.allOnes 32, data := 0, dead := true }
      ans (s1.enterStores n [e] false)
    | _ => ans (s.store n line (List.replicate 128 0) .plain true)
  | _ => ans (s.store n line (List.replicate 128 0) .plain true)

/-- R279. -/
def execCacheDead (x : Ctx) (f : RF) (s : State) : Out :=
  let F := formCache f 0 true
  .next (runForm x F (codeG F.a) [] s fun s => s.deadBody x.core ((s.core x.core).arch.rg F.a).toNat)

/-- A prefetch translates as a load and raises nothing; an accepted one holds a miss register (R280). -/
def State.pfBody (s : State) (n va : Nat) (llcOnly : Bool) : Res :=
  let pl := (s.core n).pl
  match s.translate n .load pl va with
  | (s, .fault _ _) => .ok s
  | (s, .ok pa hint _) =>
    if !visible pa 1 then .ok s
    else
      let l := pa / 128
      if !llcOnly && ((s.core n).l1Line l).valid == 0xF then .ok s
      else match s.l1MissFor n l 0xF hint llcOnly
          (if pl ≠ 3 && ((s.core n).cr nPTB).toNat.testBit 0 then [va] else []) with
        | some s => .ok s
        | none => .wait s .miss

/-- R280. -/
def execCachePf (x : Ctx) (f : RF) (s : State) : Out :=
  let F := formCache f 1 true
  .next (runForm x F (codeG F.a) [] s fun s => s.pfBody x.core ((s.core x.core).arch.rg F.a).toNat false)

/-- R280, into the home slice only. -/
def execCachePfLlc (x : Ctx) (f : RF) (s : State) : Out :=
  let F := formCache f 2 true
  .next (runForm x F (codeG F.a) [] s fun s => s.pfBody x.core ((s.core x.core).arch.rg F.a).toNat true)

/-- R281: it completes once every older store of the core has been performed. -/
def execCacheIsync (x : Ctx) (f : RF) (s : State) : Out :=
  .next (runForm x (formCache f 3 false) [] [] s fun s =>
    if !(s.core x.core).tops.isEmpty then .wait s .tiles
    else if s.storesOut x.core then .wait s .stores
    else .ok s)

/-- Translations leave every core (R281). -/
def State.dropTlb (s : State) (p : TlbEntry → Bool) : State :=
  s.cores.foldl (fun (s : State) (k : Nat × Core) =>
    s.updCore k.1 fun c => { c with tlb := c.tlb.filter fun t => !p t }) s

/-- Whether a prefetch is in flight on some core under a translation that is to be removed (R281). -/
def State.pfUnder (s : State) (p : TlbEntry → Bool) : Bool :=
  s.cores.any fun k => k.2.pfAddrs.any fun va => k.2.tlb.any fun t => t.covers va && p t

/-- R281: it completes when no prefetch is in flight under a removed translation. -/
def State.tlbBody (s : State) (n : Nat) (F : Form) (p : TlbEntry → Bool) : Res :=
  if (s.core n).pl = 0 then denied F s
  else if s.pfUnder p then .wait s .miss
  else .ok (s.dropTlb p)

def execTlbInv (x : Ctx) (f : RF) (s : State) : Out :=
  let F := formCache f 4 true
  .next (runForm x F (codeG F.a) [] s fun s =>
    let va := ((s.core x.core).arch.rg F.a).toNat
    s.tlbBody x.core F fun t => t.covers va)

def execTlbInva (x : Ctx) (f : RF) (s : State) : Out :=
  let F := formCache f 5 false
  .next (runForm x F [] [] s fun s => s.tlbBody x.core F fun _ => true)

/-! ### Fills -/

/-- R256, R270, R272, R277: the sectors that a core's miss asked for fill the home slice and its L1, and the miss
registers free. A line of another device comes in RDR packets, and a row that is being copied keeps it waiting (R308). -/
def execLineFill (core line : Nat) (up : List Upset) (s : State) : Out :=
  match (s.core core).l1Miss.find? fun m => m.line == line with
  | none => .next s
  | some m =>
    if isRemoteLine line || s.lineCopying line then .next s
    else
    let s := (s.fillMiss core m).settleL1 core
    .next (up.foldl (fun (s : State) u => match u with
      | .l1 sec a => if sec / 4 = line then s.upset core (.l1 sec a) else s
      | .slice sec a => if sec / 4 = line then s.upset core (.slice sec a) else s
      | .path sec a => if sec / 4 = line then s.upset core (.path sec a) else s
      | _ => s) s)

/-! ### Swath (R284 to R286) -/

/-- The effect of an operation on one line (R284). A pinned fill of PREFETCH has age 2 as any other. -/
def State.treatLine (s : State) (op l : Nat) (pin : Bool) : State :=
  if op = 1 then s.cleanLine l
  else if op = 2 then s.invalLine l
  else if op = 3 then s.deadLine l
  else if op = 4 then s.unpinLine l
  else s.readFill l 0xF 0 pin

/-- R284, R286: a slice treats one line of the range, whichever line comes next; none while memory is not served (R311),
nor a PREFETCH in a row that is being copied (R308). -/
def execSwathLine (ch line : Nat) (s : State) : Out :=
  let x := s.swath ch
  if !x.busy || x.aborted || line < x.first || x.first + x.lines ≤ line || x.treated.has line || !s.mem.served ||
      (x.op == 5 && s.lineCopying line) then .next s
  else
    let t := s.treatLine x.op line x.pin
    -- A retired frame counts whatever the operation (R309).
    let bad := ((x.op == 1 || x.op == 2 || x.op == 5) && (s.linePoisoned line || t.linePoisoned line)) ||
      s.frameRetired (line / 32)
    .next (t.setSwath ch
      { x with treated := x.treated.add line, count := x.count + 1, poisonSeen := x.poisonSeen || bad })

/-- R285: every line has been treated, or the operation was aborted. -/
def execSwathComplete (ch : Nat) (s : State) : Out :=
  let x := s.swath ch
  if !x.busy then .next s
  else if x.aborted then .next (s.swathDone ch 0x03 x.irq)
  else if x.count = x.lines then .next (s.swathDone ch (if x.poisonSeen then 0x04 else 0x00) x.irq)
  else .next s

end Sys2Proof.Machine
end

