-- ==== Sys2Proof/Machine/Stack.lean ====
section
/-! DEFINITION. Stacked memory: reads and their rereads (R307), write-backs (R300), remaps (R308), refresh (R301,
R302) and the end of the overwrite (R311). -/

namespace Sys2Proof.Machine

/-! ### Reads (R307) -/

/-- R307, R404: what the coming read of a sector from its stack finds, and its second read where the first fails. A later
one for the same sector replaces it. -/
def execStackRead (sector : Nat) (first second : StackFind) (s : State) : Out :=
  .next { s with mem := { s.mem with finds := (s.mem.finds.filter fun f => f.1 != sector) ++ [(sector, first, second)] } }

/-! ### Write-backs (R300) -/

/-- R300, R309, R405: a write-back reaches its stack. A zero-marked line is written whole; an error on the path
poisons the sectors written; a retired frame drops it, and a row that is being copied keeps it waiting (R308). -/
def execStackWrite (line : Nat) (bad : Bool) (s : State) : Out :=
  match s.mem.wbs.find? fun p => p.1 == line with
  | none => .next s
  | some p =>
    if s.lineCopying line then .next s
    else
      let s : State := { s with mem := { s.mem with wbs := s.mem.wbs.erase p } }
      if isRemoteLine line || s.frameRetired (line / 32) then .next s
      else
        let r := s.rowAt (4 * line)
        let s := s.useMeta (s.place (line * 128)).1
        let k := if s.mem.written.has line then (sectors p.2).length else 4
        let s : State := { s with mem := { s.mem with written := s.mem.written.add line } }
        let s := s.countDev 0xA1 r.stack k
        if bad then
          .next ((sectors p.2).foldl (fun (s : State) i =>
            if s.poisoned (4 * line + i) then s else (s.poison (4 * line + i)).poisonMade r.stack (4 * line + i) 3) s)
        else .next s

/-! ### Remaps (R308) -/

/-- A column of a row that failed both reads is written as poisoned, where the row's own data is what its sector reads
as: no zero-marked line, and no sector that a slice holds dirty or is writing back (R300, R308). -/
def State.copyFailed (s : State) (stack sec : Nat) : State :=
  let l := sec / 4
  let newer := (s.llcLine l).dirty.toNat.testBit (sec % 4) || s.mem.wbs.any fun p => p.1 == l && p.2.toNat.testBit (sec % 4)
  if s.poisoned sec || !s.mem.written.has l || newer then s else (s.poison sec).poisonMade stack sec 1

/-- Rows that point at a spare each: every one is counted and recorded (R308, R425). -/
def State.addRemaps (s : State) (stack : Nat) (ms : List (Row × Nat)) : State :=
  ms.foldl (fun (s : State) t =>
    ({ s with mem := { s.mem with remaps := s.mem.remaps ++ [t] } } : State).countDev 0xA4 stack 1 |>.history 0x09 0 stack
      (BitVec.ofNat 64 t.1.code) (BitVec.ofNat 32 t.2)) s

/-- The copy of a row ends: `failed` spares failed during it, and the copy moved on to the next unused one each time. With
no spare left, the frame is retired (R309). -/
def State.endCopy (s : State) (c : RowCopy) (failed : Nat) (bad : List Nat) : State :=
  let r := c.row
  let s : State := { s with mem := { s.mem with copying := s.mem.copying.erase c } }
  let base := c.addr / 1024 * 32
  let s := bad.foldl (fun (s : State) i => s.copyFailed r.stack (base + i % 32)) s
  let used := s.usedSpares r
  let next := ((List.range 16).drop used).map fun k => 16384 + k
  let chain := c.spare :: next.take failed
  -- A spare that failed in the copy points at the one that followed it.
  let from_ := r :: chain.map fun k => ({ r with row := k } : Row)
  let s : State := { s.takeSpares r failed with mem := { (s.takeSpares r failed).mem with
    corrected := s.mem.corrected.filter fun p => p.1 != r } }
  let s := s.addRemaps r.stack (from_.zip chain)
  if failed ≤ next.length then s else s.retireFrame 0 (c.addr / 4096) r

/-! ### Refresh (R301 to R303) -/

def debtKey (pch bank : Nat) : Nat := pch * 96 + bank

/-- R301, R302: an operation falls due. In distributed mode the controller issues when it chooses and keeps the
debt below 512; in windowed mode it waits for a window, unless the debt stands at 512. -/
def execRefreshDue (stack pch bank : Nat) (s : State) : Out :=
  if stack ≥ Config.dramStacks || pch ≥ 32 || bank ≥ 96 || !s.pins.clocks then .next s
  else
    let x := s.stack stack
    let k := debtKey pch bank
    let d := Tab.get 0 x.debt k
    if s.windowed then
      if d < 512 then .next (s.setStack stack { x with debt := Tab.set 0 x.debt k (d + 1) })
      else .next (s.setStack stack { x with forced := x.forced || !s.inRefresh })
    else
      let new := Config.pick s.free % (min (d + 1) 511 + 1)
      .next ((s.setStack stack { x with debt := Tab.set 0 x.debt k new }).draw)

/-! ### The wipe (R311, R312) -/

/-- R311, R460: the overwrite of every row finishes. Lines written since keep their data (R312). -/
def execOverwriteComplete (s : State) : Out :=
  .next (if !s.mem.served || !s.mem.wiping then s
    else ({ s with mem := { s.mem with wiping := false } } : State).endLifeCycle)

end Sys2Proof.Machine
end

