-- ==== Sys2Proof/Machine/TimeEvents.lean ====
section
/-! DEFINITION. The events of the timebase: pulses and packets (R318, R320, R356), the period and its tolerance
(R318, R319), slots (R326), the reference (R315), the end of EPOCH_OUT (R324), zone steps without a boundary
(R305), and the tick that passes while no command waits. -/

namespace Sys2Proof.Machine

/-- R318, R320, R477: a pulse on EPOCH_IN. -/
def execEpochIn (s : State) : Out := .next (s.arrival none)

/-- Ticks that pass one by one. -/
def State.ticks : Nat → State → State
  | 0, s => s
  | k + 1, s => State.ticks k s.oneTick

/-- The held TIME packet that arrives first. -/
def State.nextTime (s : State) : Option HeldTime :=
  s.pel.held.foldl (fun (m : Option HeldTime) h => match m with
    | none => some h
    | some x => if h.due < x.due then some h else some x) none

/-- R356: a held TIME packet's LEAD reaches zero: the ticks up to then pass, and it counts as arriving, unless an
earlier copy for its epoch number has. -/
def execTimeArrival (s : State) : Out :=
  match s.nextTime with
  | none => .next s
  | some h =>
    let s : State := { s with pel := { s.pel with held := s.pel.held.erase h } }
    let s := State.ticks (h.due - s.tb.now) s
    if s.pel.timesUsed.has h.epoch.toNat then .next s
    else
      let s : State := { s with pel := { s.pel with timesUsed := s.pel.timesUsed.add h.epoch.toNat } }
      .next (s.arrival (some (h.epoch, h.period)))

/-- R318, R319, R323: the ticks up to PERIOD pass, and a boundary is taken. -/
def execPeriodReached (s : State) : Out :=
  if !s.tbRun then .next s
  else
    let s := s.passTo (max s.tb.tick (s.tb.period - 1))
    .next s.lastTick.atPeriod

/-- R318, R319: TOL ticks pass after a provisional boundary with no pulse or packet. -/
def execTolExpiry (s : State) : Out :=
  if !s.tbRun || !s.tb.prov then .next s
  else
    let s := s.passTo (max s.tb.tick (min s.tbTol (s.tb.period - 1)))
    .next (if s.tb.prov then s.tolMissed else s)

/-- R326: the ticks up to an armed slot's pass, and it fires. -/
def execSlotFire (slot : Nat) (s : State) : Out :=
  if slot ≥ Config.eventSlots || !s.tbRun || !s.slotArmed slot || s.slotEpoch slot != s.tb.epoch.toNat ||
      s.slotTick slot < s.tb.tick || s.tb.period ≤ s.slotTick slot || !s.slotsFire then .next s
  else .next (s.passTo (s.slotTick slot))

/-- R315: TIMEREF is absent or out of tolerance: LOCK is 0 and REFLOST is set. -/
def execTimerefLost (s : State) : Out :=
  .next (if !s.pins.clocks then s
    else ({ s with tb := { s.tb with timeref := false, lock := false } } : State).orReg (wTB + 0x08) (fmask 62 62))

/-- R315: the tick PLL locks to TIMEREF. -/
def execPllLock (s : State) : Out := 
  .next (if !s.pins.clocks then s else { s with tb := { s.tb with timeref := true, lock := true } })

/-- R324, R475: the ticks up to the sixteenth after the boundary that drove EPOCH_OUT low pass, and it is released. -/
def execEpochOutRelease (s : State) : Out :=
  if s.pins.epochOut ≠ .low then .next s else .next (State.ticks (s.tb.outUntil - s.tb.now) s)

/-- R302: the ticks up to the end of the refresh window pass, and it closes. -/
def execRefreshWindowEnd (s : State) : Out :=
  match s.tb.window with
  | none => .next s
  | some (_, e) => .next (State.ticks (e - s.tb.now) s)

/-- R305: a zone step takes effect 1 ms after its sample, where no boundary came sooner. -/
def execZoneStepTimeout (stack : Nat) (s : State) : Out :=
  if stack ≥ Config.dramStacks then .next s
  else
    let x := s.stack stack
    .next (s.setStack stack { x with zone := x.zoneNext })

end Sys2Proof.Machine
end

