-- ==== Sys2Proof/Machine/Pelvar.lean ====
section
/-! DEFINITION. The Pelvar fabric seen from its ports: arriving packets (R333 to R338, R344, R345, R351, R354 to R356),
trackers (R350), the link layer (R348, R353, R362) and the collective phases (R357 to R361). -/

namespace Sys2Proof.Machine

/-! ### Arrival and forwarding (R335, R354) -/

/-- Sectors of packet stream of a packet. -/
def packetSectors (p : Packet) : Nat := (32 + p.payload.length + 31) / 32

/-- R335: a packet for another device goes on with one hop less, or is dropped and counted. -/
def State.forwardPacket (s : State) (p : Packet) : State :=
  if !s.pelEn || !(s.reg (wPEL + 8)).toNat.testBit 2 || p.hops.toNat ≤ 1 then s.dropped
  else match s.route p.src.toNat p.dst.toNat with
    | none => s.dropped
    | some q => s.emit q (packetSeal { p with hops := p.hops - 1 })

/-- A packet of one kind arrives on a port that is UP: a bad one is dropped, one for another device forwarded. -/
def State.arrive (s : State) (port : Nat) (p : Packet) (kind : Nat) (own : State → State) : State :=
  if port ≥ Config.ports || (s.port port).state != .up || p.kind.toNat != kind then s
  else
    let s := s.countDev 0xC1 port (packetSectors p)
    if !packetGood p then s.dropped
    else if p.dst.toNat ≠ s.devnum then s.forwardPacket p
    else own s

/-! ### The home side (R333, R338, R344, R345) -/

/-- A response to a packet: its SRC, TAG and GEN. -/
def State.answer (s : State) (p : Packet) (kind status aux : Nat) (payload : List Byte) : State :=
  match s.route s.devnum p.src.toNat with
  | none => s
  | some q => s.emit q (s.packet kind p.src.toNat p.tag.toNat p.gen aux 0 payload.length 0 status payload)

/-- An answer with STATUS REFUSED, counted (R333, R362). -/
def State.refuse (s : State) (p : Packet) (kind : Nat) : State :=
  (s.bump (wPEL + 0x28) 15 0 1).answer p kind 1 0 []

/-- Whether an export window grants a request for the bytes from `a` to `a + n` (R333): permission bit 0 R,
1 W, 2 A. -/
def State.exported (s : State) (p : Packet) (a n perm : Nat) : Bool :=
  (List.range 8).any fun i =>
    let wa := s.reg (wPEL + 0x100 + 16 * i)
    let wb := s.reg (wPEL + 0x108 + 16 * i)
    let lo := W64.fld wa 46 12 * 4096
    wa.toNat.testBit 3 && wa.toNat.testBit perm && decide (lo ≤ a ∧ a + n ≤ lo + W64.fld wb 31 0 * 4096) &&
      decide (W64.fld wb 47 32 ≤ p.src.toNat ∧ p.src.toNat ≤ W64.fld wb 63 48)

/-- Whether the home accepts a request for a span (R333, R362, R422). -/
def State.accepts (s : State) (p : Packet) (a n perm : Nat) : Bool :=
  s.pelEn && !s.fault.fatal && p.part.toNat == s.part && visible a n && s.exported p a n perm

/-- The span that the sectors of a mask cover, from the first to the last. -/
def maskSpan (m : BitVec 4) : Nat × Nat :=
  match sectors m with
  | [] => (0, 0)
  | i :: t => (32 * i, 32 * ((t.getLast?).getD i + 1 - i))

/-- R333, R351, R355: a read is answered with committed data and its poison. -/
def State.serveRd (s : State) (p : Packet) : State :=
  let m : BitVec 4 := p.aux.setWidth 4
  let a := p.addr.toNat / 128 * 128
  let sp := maskSpan m
  if !s.accepts p (a + sp.1) sp.2 0 then s.refuse p 2
  else
    let l := a / 128
    let s := s.sliceRead l m
    let bad := (sectors m).filter fun i => s.poisoned (4 * l + i)
    let data := ((sectors m).map fun i => s.bytesAt (a + 32 * i) 32).flatten
    s.answer p 2 (if bad.isEmpty then 0 else 2)
      (m.toNat + 16 * (bad.map fun i => 2 ^ i).foldl (· + ·) 0) data

/-- The recorded outcome of a WR or ATM that the home has performed (R338). -/
def State.filtered (s : State) (p : Packet) : Option FiltRec :=
  s.pel.filter.find? fun r => r.src == p.src && r.tag == p.tag

def State.filterAdd (s : State) (p : Packet) (old : W64) : State :=
  { s with pel := { s.pel with filter := s.pel.filter ++ [⟨p.src, p.tag, 0, old, s.tb.now⟩] } }

/-- While the filter is full, a WR or ATM waits (R338). -/
def filterMax : Nat := 65536

def State.filterHold (s : State) (port : Nat) (p : Packet) : State :=
  ({ s with pel := { s.pel with filtWait := s.pel.filtWait ++ [(port, p)] } } : State).orReg (wPEL + 0x18) (fmask 60 60)

/-- R344: a store that arrives in epoch ESTAMP + L or later. -/
def State.isLate (s : State) (p : Packet) : Bool :=
  let d := (s.tb.epoch.toNat + 256 - p.estamp.toNat) % 256
  s.tb.mode == .tracking && decide (s.pel.vlag ≤ d ∧ d < 128)

/-- R344, R397: a late store is counted, and reported at most once in an epoch. -/
def State.noteLate (s : State) : State :=
  let s := (s.bump (wPEL + 0x28) 63 32 1).orReg (wPEL + 0x18) (fmask 62 62)
  let n := s.pel.vislate + 1
  if s.pel.vislateAt = some s.tb.epoch then { s with pel := { s.pel with vislate := n } }
  else
    ({ s with pel := { s.pel with vislate := 0, vislateAt := some s.tb.epoch } } : State).report 0x08 noUnit 0
      (BitVec.ofNat 64 n) 0

/-- The mask of the line's bytes that a WR carries, within the sectors of AUX (R355). -/
def wrMask (p : Packet) : Nat :=
  let m := ofBytes (p.payload.take 16)
  ((sectors (p.aux.setWidth 4)).map fun i => ((m >>> (32 * i)) % 2 ^ 32) <<< (32 * i)).foldl (· + ·) 0

/-- Bytes of a mask of 128, from the first to the last. -/
def byteSpan (m : Nat) : Nat × Nat :=
  if m = 0 then (0, 0)
  else
    let lo := lowBit 128 m
    (lo, 128 - leadZeros 128 m - lo)

/-- R333, R337, R344, R351: a write is performed sector by sector at its home slice. -/
def State.serveWr (s : State) (p : Packet) : State :=
  let a := p.addr.toNat / 128 * 128
  let m := wrMask p
  let sp := byteSpan m
  -- The fatal state refuses every request, one recorded in the filter too (R422).
  if s.fault.fatal then s.refuse p 4
  else match s.filtered p with
  | some r => s.answer p 4 r.status.toNat 0 []
  | none =>
    if !s.accepts p (a + sp.1) sp.2 1 then s.refuse p 4
    else if s.frameRetired (a / 4096) then s.answer p 4 2 0 []
    else
      let secs := sectors (p.aux.setWidth 4)
      let s := (secs.zip (List.range secs.length)).foldl (fun (s : State) (q : Nat × Nat) =>
        let k : W32 := BitVec.ofNat 32 (m >>> (32 * q.1))
        let d : Sector := BitVec.ofNat 256 (ofBytes ((p.payload.drop (16 + 32 * q.2)).take 32))
        if k = 0 then s else (s.commitSector none (a / 32 + q.1) k d false true 0).1) s
      let s := if s.isLate p then s.noteLate else s
      (s.filterAdd p 0).answer p 4 0 0 []

/-- R333, R345, R351: an atomic is performed at its home slice on the committed value. -/
def State.serveAtm (s : State) (p : Packet) : State :=
  let func := p.aux.toNat % 256
  let op := func % 16
  let w := if func < 128 then 32 else 64
  let a := p.addr.toNat
  if s.fault.fatal then s.refuse p 6
  else match s.filtered p with
  | some r => s.answer p 6 r.status.toNat 0 (bytesOf 8 r.old.toNat)
  | none =>
    if func / 16 % 8 ≠ 0 ∨ op > 7 ∨ a % (w / 8) ≠ 0 || !s.accepts p a (w / 8) 2 then s.refuse p 6
    else if s.poisoned (a / 32) then s.answer p 6 2 0 []
    else if s.readSpoils a 0 then (s.readAtom a 0).answer p 6 2 0 []
    else
      let b := ofBytes (p.payload.take 8) % 2 ^ w
      let cmp := ofBytes ((p.payload.drop 8).take 8) % 2 ^ w
      let r := s.atomicHome none a op w b cmp 0
      (r.1.filterAdd p (BitVec.ofNat 64 r.2)).answer p 6 0 0 (bytesOf 8 r.2)

/-- An arriving request is served. -/
def State.serve (s : State) (p : Packet) : State :=
  if p.kind = 1 then s.serveRd p else if p.kind = 3 then s.serveWr p else s.serveAtm p

/-- A request waits at its home until memory is served (R311), and while its row is copied (R308). -/
def State.homeWaits (s : State) (p : Packet) : Bool :=
  s.pelEn && !s.fault.fatal && (!s.mem.served || s.lineCopying (p.addr.toNat / 128))

/-- A request is served, or waits: also where a WR or ATM would need a record of the full filter (R338). -/
def State.serveOrHold (s : State) (port : Nat) (p : Packet) : State :=
  if s.homeWaits p then { s with pel := { s.pel with homeWait := s.pel.homeWait ++ [(port, p)] } }
  else if p.kind != 1 && decide (s.pel.filter.length ≥ filterMax) && (s.filtered p).isNone then s.filterHold port p
  else s.serve p

/-- Requests that waited at the home are tried again, in the order of their arrival. -/
def State.flushHome (s : State) : State :=
  s.pel.homeWait.foldl (fun (s : State) w => s.serveOrHold w.1 w.2) { s with pel := { s.pel with homeWait := [] } }

/-- Requests that waited for a record are tried again. -/
def State.flushFilter (s : State) : State :=
  s.pel.filtWait.foldl (fun (s : State) w =>
    if s.pel.filter.length ≥ filterMax then { s with pel := { s.pel with filtWait := s.pel.filtWait ++ [w] } }
    else s.serve w.2) { s with pel := { s.pel with filtWait := [] } }

/-! ### The requester's side (R336, R337, R341, R350, R351) -/

/-- Waiting remote stores leave where their sector is free and a tracker is (R336, R337). -/
def State.flushWaits (s : State) : State :=
  let all := s.pel.rwait
  all.foldl (fun (s : State) (w : RWait) =>
    let sec := w.entry.addr.toNat / 32
    let stamp := match w.origin with
      | .version v _ _ _ => (s.ver v).made
      | _ => s.tb.epoch
    let earlier := s.pel.rwait.any fun x => x.entry.addr.toNat / 32 == sec
    if s.wrOutstanding sec || earlier then { s with pel := { s.pel with rwait := s.pel.rwait ++ [w] } }
    else match s.sendPart w.origin w.also w.entry w.cleared stamp with
      | (s, true) => s
      | (s, false) => { s with pel := { s.pel with rwait := s.pel.rwait ++ [w] } })
    ({ s with pel := { s.pel with rwait := [] } } : State)

/-- A tracker has become free. -/
def State.afterTracker (s : State) : State := s.flushWaits.flushCols.flushEnds

/-- A response is discarded and counted (R350). -/
def State.lateResp (s : State) : State := (s.bump (wPEL + 0x20) 31 0 1).orReg (wPEL + 0x18) (fmask 61 61)

/-- The tracker that a response completes: same device, kind of request and GEN (R350). -/
def State.answered (s : State) (p : Packet) (kinds : List Nat) : Option Tracker :=
  match s.tracker p.tag.toNat with
  | some t => if t.packet.dst = p.src ∧ t.packet.gen = p.gen ∧ kinds.contains t.packet.kind.toNat then some t else none
  | none => none

/-- The global address of a request. -/
def Tracker.global (t : Tracker) : Nat := 2 ^ 63 + t.packet.dst.toNat * 2 ^ 47 + t.packet.addr.toNat % 2 ^ 47

/-- A sector reaches the waiting instruction of a core, which may go on. -/
def State.deliverRemote (s : State) (n : Nat) (d : RemoteData) : State :=
  s.updCore n fun c => if c.wait = .remote then { c with remote := c.remote ++ [d] } else c

/-- The bytes of a filled remote sector under the device's own unanswered stores to it (R341). -/
def State.underOwn (s : State) (sec : Nat) (d : Sector) : Sector :=
  let out := (s.pel.trackers.filterMap fun t => t.2.bind fun t => t.entry) ++ s.pel.rwait.map fun w => w.entry
  (out.filter fun e => e.addr.toNat / 32 == sec).foldl (fun (d : Sector) e => e.onSector d) d

/-- A remote sector enters the device's copy of its line (R340). -/
def State.cacheSector (s : State) (sec : Nat) (d : Sector) (poison : Bool) : State :=
  if !s.cacheRemote then s
  else
    let l := sec / 4
    let q := sec % 4
    let bit : BitVec 4 := BitVec.ofNat 4 (2 ^ q)
    let s := s.llcFill l bit 0 0 false
    let x := Tab.get RLine.reset s.mem.rlines l
    let x : RLine :=
      { valid := x.valid ||| bit, poison := if poison then x.poison ||| bit else x.poison &&& ~~~bit,
        data := (List.range 32).foldl (fun y i => putByte y (32 * q + i) (byteAt d i)) x.data }
    { s with mem := { s.mem with rlines := Tab.set RLine.reset s.mem.rlines l x } }

/-- A sector that an RD of a core asked for has come, or has failed to come: the registers of its line free once no RD of
the core is out for the line (R270, R272). -/
def State.endFar (s : State) (n l : Nat) : State := if s.lineOut n l then s else s.freeMiss n l

/-- How a request ends that was not answered OK (R350, R351): KIND of a late store error. -/
inductive Bad where
  | poison | refused | failed
deriving DecidableEq, Repr

def Bad.kind : Bad → BitVec 2
  | .poison => 1
  | .refused => 3
  | .failed => 2

/-- A request has ended without its effect: who waits for it hears (R351, R361). -/
def State.requestBad (s : State) (t : Tracker) (b : Bad) : State :=
  let sec : W64 := BitVec.ofNat 64 (t.global / 32 * 32)
  match t.origin with
  | .load n =>
    (sectors (t.packet.aux.setWidth 4)).foldl (fun (s : State) i =>
      s.deliverRemote n (.failed (BitVec.ofNat 64 (t.global / 128 * 128 + 32 * i)))) s |>.endFar n (t.global / 128)
  | .atomic n =>
    if b = .poison then s.deliverRemote n (.old (BitVec.ofNat 64 t.global) 0 true) else s.deliverRemote n (.failed sec)
  | .collective id rank => s.failPhase id (some (fld t.packet.aux.toNat 18 16, rank)) false
  | o => match t.entry with
    | some e => s.storesFailed (o :: t.also) e b.kind
    | none => s

/-- A store's next part leaves (R517), or the store is complete. -/
def State.storeNext (s : State) (t : Tracker) (e : SbEntry) (wrote : Bool) : State :=
  let stamp := match t.origin with
    | .version v _ _ _ => (s.ver v).made
    | _ => s.tb.epoch
  let go := fun (s : State) (e : SbEntry) (cleared : Bool) =>
    match s.sendPart t.origin t.also e cleared stamp with
    | (s, true) => s
    | (s, false) => { s with pel := { s.pel with rwait := ⟨t.origin, t.also, e, cleared⟩ :: s.pel.rwait } }
  let fin := fun (s : State) => (t.origin :: t.also).foldl (fun (s : State) o => match o with
    | .push n => s.updCore n fun c => { c with remote := c.remote ++ [.stored e.addr true] }
    | _ => s) s
  if wrote then
    if e.part = 0 then fin s else go s { e with mask := e.part } false
  else if t.packet.aux = 2 then go s e true
  else
    let r := e.nextWord
    if r.part = 0 then fin s else go s r false

/-- R340, R341, R350, R351: a read's answer. -/
def State.takeRdr (s : State) (p : Packet) : State :=
  match s.answered p [1] with
  | none => s.lateResp
  | some t =>
    let s := s.setTracker p.tag.toNat none
    let s :=
      if p.status = 1 then s.requestBad t .refused
      else match t.origin with
        | .load n =>
          let m := sectors (p.aux.setWidth 4)
          ((m.zip (List.range m.length)).foldl (fun (s : State) (q : Nat × Nat) =>
            let sec := t.global / 128 * 4 + q.1
            let d := s.underOwn sec (BitVec.ofNat 256 (ofBytes ((p.payload.drop (32 * q.2)).take 32)))
            let bad := p.aux.toNat.testBit (4 + q.1)
            -- Data that was asked for before a boundary may be older than what a load of this epoch must see (R342).
            let s := if t.epoch = s.tb.epoch then s.cacheSector sec d bad else s
            s.deliverRemote n (.data (BitVec.ofNat 64 (sec * 32)) d bad)) s).endFar n (t.global / 128)
        | _ => s
    s.afterTracker

/-- R337, R350, R351: the answer to a WR or a COL. -/
def State.takeWra (s : State) (p : Packet) : State :=
  match s.answered p [3, 7] with
  | none => s.lateResp
  | some t =>
    let s := s.setTracker p.tag.toNat none
    let s :=
      if p.status = 1 then s.requestBad t .refused
      else if p.status = 2 then s.requestBad t .poison
      else match t.entry with
        | some e => s.storeNext t e true
        | none => s
    s.afterTracker

/-- R345, R350, R351, R517: an atomic's answer; the cached copy of the line goes. -/
def State.takeAtr (s : State) (p : Packet) : State :=
  match s.answered p [5] with
  | none => s.lateResp
  | some t =>
    let s := (s.setTracker p.tag.toNat none).dropRemote (t.global / 128)
    let s :=
      if p.status = 1 then s.requestBad t .refused
      else if p.status = 2 then s.requestBad t .poison
      else match t.origin, t.entry with
        | .atomic n, _ => s.deliverRemote n (.old (BitVec.ofNat 64 t.global) (BitVec.ofNat 64 (ofBytes (p.payload.take 8))) false)
        | _, some e => s.storeNext t e false
        | _, none => s
    s.afterTracker

/-! ### Timing packets (R356) -/

/-- R356: LEAD is reduced by the port's DLY and the ticks inside; the packet is held until it reaches zero, and
forwarded while it is positive and its PART matches, with HOPS as it came. -/
def State.takeTime (s : State) (port : Nat) (p : Packet) (inside : Nat) : State :=
  if p.src.toNat ≠ s.regF (wPEL + 0x30) 63 48 then s
  else
    let lead := p.aux.toNat % 2 ^ 22
    let left := lead - (s.regF (wPEL + 0x400 + 16 * port) 15 8 + inside)
    let h : HeldTime := ⟨s.tb.now + left, p.addr.setWidth 48, p.len.toNat % 2 ^ 22⟩
    let s : State := { s with pel := { s.pel with held := s.pel.held ++ [h] } }
    if left = 0 || !s.pelEn || p.part.toNat ≠ s.part then s
    else
      let q := packetSeal { p with aux := BitVec.ofNat 32 left }
      (List.range Config.ports).foldl (fun (s : State) n =>
        if n ≠ port ∧ (s.regF (wPEL + 0x30) 47 32).testBit n ∧ (s.port n).state = .up then s.emit n q else s) s

/-! ### Packets as commands -/

def execRd (port : Nat) (p : Packet) (s : State) : Out := .next (s.arrive port p 1 fun s => s.serveOrHold port p)

def execRdr (port : Nat) (p : Packet) (s : State) : Out := .next (s.arrive port p 2 fun s => s.takeRdr p)

def execWr (port : Nat) (p : Packet) (s : State) : Out :=
  .next (s.arrive port p 3 fun s => s.serveOrHold port p)

def execWra (port : Nat) (p : Packet) (s : State) : Out := .next (s.arrive port p 4 fun s => s.takeWra p)

def execAtm (port : Nat) (p : Packet) (s : State) : Out :=
  .next (s.arrive port p 5 fun s => s.serveOrHold port p)

def execAtr (port : Nat) (p : Packet) (s : State) : Out := .next (s.arrive port p 6 fun s => s.takeAtr p)

/-- R355, R359 to R361: COL packets are answered by WRA. -/
def execCol (port : Nat) (p : Packet) (s : State) : Out :=
  .next (s.arrive port p 7 fun s =>
    if !s.pelEn || s.fault.fatal then s.refuse p 4 else (s.answer p 4 0 0 []).colArrives p)

/-- R354, R356: a TIME packet is taken whatever its DST. -/
def execTime (port : Nat) (p : Packet) (inside : Nat) (s : State) : Out :=
  if port ≥ Config.ports || (s.port port).state != .up || p.kind != 8 then .next s
  else
    let s := s.countDev 0xC1 port (packetSectors p)
    .next (if !packetGood p then s.dropped else s.takeTime port p inside)

/-- R335: a packet for another device. -/
def execPacketForward (port : Nat) (p : Packet) (s : State) : Out :=
  if port ≥ Config.ports || (s.port port).state != .up || p.kind == 8 || p.dst.toNat == s.devnum then .next s
  else
    let s := s.countDev 0xC1 port (packetSectors p)
    .next (if !packetGood p then s.dropped else s.forwardPacket p)

/-! ### Trackers and the filter as commands -/

/-- The second sending of a request (R350): GEN 1, but 0 for COL (R354). -/
def State.reissue (s : State) (tag : Nat) (t : Tracker) : State :=
  let p := packetSeal { t.packet with gen := if t.packet.kind = 7 then 0 else 1 }
  let s := s.bump (wPEL + 0x20) 63 32 1
  let s := s.setTracker tag (some { t with packet := p, again := true, sent := s.tb.now, epoch := s.tb.epoch })
  match s.route s.devnum p.dst.toNat with
  | none => s
  | some q => s.emit q p

/-- R350: a tracker's timer has reached TIMEOUT: the request is sent again, or fails. -/
def execTrackerTimeout (tag : Nat) (s : State) : Out :=
  match s.tracker tag with
  | none => .next s
  | some t =>
    if s.tb.now < t.sent + s.timeout then .next s
    else if !t.again then .next (s.reissue tag t)
    else
      let s := s.setTracker tag none
      let s := if t.packet.kind = 7 then s else s.dropRemote (t.global / 128)
      .next (s.requestBad t .failed).afterTracker

/-- R338: a record that has been kept for 2 × TIMEOUT goes, and packets that wait for a place are served. -/
def execFilterExpiry (src tag : Nat) (s : State) : Out :=
  match s.pel.filter.find? fun r => r.src.toNat == src && r.tag.toNat == tag with
  | none => .next s
  | some r =>
    if s.tb.now < r.at_ + 2 * s.timeout then .next s
    else .next ({ s with pel := { s.pel with filter := s.pel.filter.erase r } } : State).flushFilter

/-! ### The link layer (R348, R352, R353, R362) -/

/-- A port goes DOWN, and trains again while EN is 1. -/
def State.portDown (s : State) (n : Nat) : State := (s.setPort n (s.port n).goDown).train n

/-- A link has replayed one flit 8 times, or 2 µs, 500 ticks, have passed since that flit first failed (R348): at either
end. -/
def State.linkSpent (s : State) (p : Port) : Bool :=
  let old := fun (t : Option Nat) => t.any fun t => decide (t + 500 ≤ s.tb.now)
  decide (p.again ≥ 8) || old p.failed || decide (p.outAgain ≥ 8) || old p.outFailed

/-- What ACK, NAK and the credits of a good flit bring: flits up to ACK are done, and those after it are sent again where
NAK asks for it (R348, R353). -/
def State.takeAck (s : State) (n ack : Nat) (nak : Bool) (credits : Nat) : State :=
  let p := s.port n
  let left := p.out.dropWhile fun f => decide ((ack + 4096 - f.seq) % 4096 < 2048)
  let moved := left.length != p.out.length
  let p : Port := { p with out := left, room := p.room + credits, outAgain := if moved then 0 else p.outAgain,
                           outFailed := if moved then none else p.outFailed }
  let s := if !nak || left.isEmpty then s.setPort n p
    else
      let s := s.setPort n { p with
        outAgain := p.outAgain + 1, outFailed := p.outFailed.orElse fun _ => some s.tb.now
        replays := min 65535 (p.replays + left.length) }
      left.foldl (fun (s : State) f => s.sendFlit n f) (s.countDev 0xC2 n left.length)
  State.pump n 4096 s

/-- R348, R353: a flit arrives with its number, acknowledgement and credits. A good one in sequence is taken; for a bad one
a replay is asked for, and the link gives up once it has been replayed 8 times. -/
def execFlit (port : Nat) (head : FlitHead) (good : Bool) (s : State) : Out :=
  let p := s.port port
  if port ≥ Config.ports || p.state != .up || head.seq % 4096 != p.seq then .next s
  else if good then
    .next ((s.setPort port { p with seq := (p.seq + 1) % 4096, again := 0, failed := none, owed := p.owed + 1 }).takeAck port
      (head.ack % 4096) head.nak head.credits)
  else if p.again ≥ 8 then .next (s.portDown port)
  else .next (s.setPort port { p with again := p.again + 1, failed := p.failed.orElse fun _ => some s.tb.now })

/-- R348: the link gives up. -/
def execLinkGiveUp (port : Nat) (s : State) : Out :=
  if port ≥ Config.ports || (s.port port).state != .up || !s.linkSpent (s.port port) then .next s else .next (s.portDown port)

/-- R348, R352, R362: training ends; WIDTH takes effect and PEER is learned. The room that the other end advertises then
is not stated. -/
def execPortUp (port : Nat) (peer : BitVec 16) (s : State) : Out :=
  let p := s.port port
  if port ≥ Config.ports || p.state != .training || !s.mayTrain then .next s
  else
    let room := (Config.freeValue s.free).toNat
    .next (s.setPort port
      { p with state := .up, width := (s.reg (wPEL + 0x400 + 16 * port)).toNat.testBit 1, peer := peer, seq := 0, again := 0,
               room := room }).draw

/-! ### Collective phases as commands -/

/-- R358. -/
def execCollectiveRead (phase : Nat) (s : State) : Out := .next (s.readPhase phase)

/-- R360. -/
def execCollectiveComplete (phase : Nat) (s : State) : Out := .next (s.completePhase phase)

/-- R361. -/
def execCollectiveDeadline (phase : Nat) (s : State) : Out := .next (s.phaseLate phase)

end Sys2Proof.Machine
end

