-- ==== Sys2Proof/Machine/Elem.lean ====
section
/-! DEFINITION. The elementary functions of R140, correctly rounded (R53): fixed-point bounds on the exact
value, narrowed until both ends round alike. Numbers here are integers in units of 2^−w. -/

namespace Sys2Proof.Machine

/-- Sum of 1 / (k 2^k): the natural logarithm of 2. -/
def ln2Sum (w : Nat) : Nat → Nat → Nat
  | 0, acc => acc
  | n + 1, acc => ln2Sum w n (acc + (2 ^ w >>> (n + 1)) / (n + 1))

/-- Natural logarithm of 2, too low by less than `w` + 1 units. -/
def ln2Fx (w : Nat) : Nat := ln2Sum w w 0

/-- Taylor series of e^r, 0 ≤ r < 1. -/
def expSum (w r : Nat) : Nat → Nat → Nat → Nat → Nat
  | 0, _, _, acc => acc
  | fuel + 1, k, t, acc =>
    let t := ((t * r) >>> w) / k
    if t = 0 then acc else expSum w r fuel (k + 1) t (acc + t)

/-- Series of sine (k = 2) and cosine (k = 1): alternating terms r^2 / (k (k + 1)) apart. -/
def trigSum (w r2 : Nat) : Nat → Nat → Nat → Int → Bool → Int
  | 0, _, _, acc, _ => acc
  | fuel + 1, k, t, acc, neg =>
    let t := ((t * r2) >>> w) / (k * (k + 1))
    if t = 0 then acc else trigSum w r2 fuel (k + 2) t (if neg then acc - t else acc + t) (!neg)

/-- Sum of t^(2n+1) / (2n+1), alternating or not: inverse tangents. -/
def atanSum (w : Nat) (alt : Bool) (t2 : Nat) : Nat → Nat → Nat → Int → Bool → Int
  | 0, _, _, acc, _ => acc
  | fuel + 1, k, p, acc, neg =>
    if p = 0 then acc
    else
      let t := p / k
      atanSum w alt t2 fuel (k + 2) ((p * t2) >>> w) (if neg then acc - t else acc + t) (alt && !neg)

/-- π by Machin's formula. -/
def piFx (w : Nat) : Nat :=
  let at_ := fun n => atanSum w true (2 ^ w / (n * n)) w 1 (2 ^ w / n) 0 false
  (16 * at_ 5 - 4 * at_ 239).toNat

/-- A magnitude `num` × 2^`exp` in units of 2^−`w`. -/
def toFx (w num : Nat) (exp : Int) : Nat :=
  if 0 ≤ exp + w then num <<< (exp + w).toNat else num >>> (-(exp + w)).toNat

/-- e^x = m × 2^(k − p) with m within 4 units, for |x| below 2^14. -/
def expParts (p : Nat) (neg : Bool) (num : Nat) (exp : Int) : Nat × Int :=
  let w := p + 64
  let x : Int := toFx w num exp
  let x := if neg then -x else x
  let l := ln2Fx w
  let k := x / (l : Int)
  let r := (x - k * l).toNat
  (expSum w r w 1 (2 ^ w) (2 ^ w) >>> 64, k)

/-- The natural logarithm of `num` × 2^`exp`, within 2^16 units of 2^−(`p` + 32). -/
def logFx (p num : Nat) (exp : Int) : Int :=
  let w := p + 32
  let lg := Nat.log2 num
  let m := (num <<< w) >>> lg
  let big := decide (2 * m > 3 * 2 ^ w)
  let e : Int := lg + exp + (if big then 1 else 0)
  let m := if big then m / 2 else m
  let neg := decide (m < 2 ^ w)
  let d := if neg then 2 ^ w - m else m - 2 ^ w
  let t := (d <<< w) / (m + 2 ^ w)
  let s := atanSum w false ((t * t) >>> w) w 1 t 0 false
  let s := if neg then -s else s
  2 * s + e * ln2Fx w

/-- Bounds on a result: sign, low and high integers, exponent. -/
abbrev Bounds := Bool × Nat × Nat × Int

/-- A result whose sign and integer are known within `err` units. -/
def around (a : Int) (err : Nat) (q : Int) : Bounds :=
  (decide (a < 0), a.natAbs - err, a.natAbs + err, q)

/-- A magnitude a little below `num` × 2^`exp`. -/
def justBelow (neg : Bool) (num : Nat) (exp : Int) : Bounds :=
  (neg, (num <<< 200) - 1, num <<< 200, exp - 200)

/-- A magnitude a little above it. -/
def justAbove (neg : Bool) (num : Nat) (exp : Int) : Bounds :=
  (neg, num <<< 200, (num <<< 200) + 1, exp - 200)

/-- e^x. -/
def expB (p : Nat) (neg : Bool) (num : Nat) (exp : Int) : Bounds :=
  if floorLog2 num exp ≥ 14 then
    if neg then (false, 2 ^ 200, 2 ^ 201, -20000) else (false, 2 ^ 200, 2 ^ 201, 20000)
  else
    let e := expParts p neg num exp
    (false, e.1 - 4, e.1 + 4, e.2 - p)

/-- 2^x for x no integer: e^(x ln 2). -/
def exp2B (p : Nat) (neg : Bool) (num : Nat) (exp : Int) : Bounds :=
  if floorLog2 num exp ≥ 14 then
    if neg then (false, 2 ^ 200, 2 ^ 201, -20000) else (false, 2 ^ 200, 2 ^ 201, 20000)
  else
    let w := p + 64
    let x : Int := toFx w num exp
    let x := if neg then -x else x
    let k := x / (2 ^ w : Nat)
    let fr := (x - k * (2 ^ w : Nat)).toNat
    let r := (fr * ln2Fx w) >>> w
    let m := expSum w r w 1 (2 ^ w) (2 ^ w) >>> 64
    (false, m - 4, m + 4, k - p)

def logB (p : Nat) (_ : Bool) (num : Nat) (exp : Int) : Bounds :=
  around (logFx p num exp) (2 ^ 24) (-(p + 32 : Nat))

/-- log2 x: the logarithm divided by that of 2. -/
def log2B (p : Nat) (_ : Bool) (num : Nat) (exp : Int) : Bounds :=
  let w := p + 32
  around (logFx p num exp * (2 ^ w : Nat) / ln2Fx w) (2 ^ 24) (-(w : Nat))

/-- 1 + e^(−|x|) and e^(−|x|), in units of 2^−`p`, with u = m 2^k kept apart: (1 + u, m, k). -/
def onePlusU (p num : Nat) (exp : Int) : Nat × Nat × Int :=
  let e := expParts p true num exp
  (2 ^ p + toFx p e.1 (e.2 - p), e.1, e.2)

/-- tanh |x| = (1 − u²) / (1 + u²) for u² = e^(−2|x|). -/
def tanhB (p : Nat) (neg : Bool) (num : Nat) (exp : Int) : Bounds :=
  let e := floorLog2 num exp
  if e < -80 then justBelow neg num exp
  else if e ≥ 6 then justBelow neg 1 0
  else
    let u := expParts p true num (exp + 1)
    let v := toFx p u.1 (u.2 - p)
    let r := ((2 ^ p - v) <<< p) / (2 ^ p + v)
    (neg, r - 64, r + 64, -(p : Nat))

/-- sigmoid x. -/
def sigmoidB (p : Nat) (neg : Bool) (num : Nat) (exp : Int) : Bounds :=
  if floorLog2 num exp ≥ 14 then
    if neg then (false, 2 ^ 200, 2 ^ 201, -20000) else justBelow false 1 0
  else
    let o := onePlusU p num exp
    if neg then
      let r := (o.2.1 <<< p) / o.1
      (false, r - 64, r + 64, o.2.2 - p)
    else
      let r := 2 ^ (2 * p) / o.1
      (false, r - 64, r + 64, -(p : Nat))

/-- Bounds times a magnitude. -/
def timesB (b : Bounds) (neg : Bool) (num : Nat) (exp : Int) : Bounds :=
  (b.1 != neg, b.2.1 * num, b.2.2.1 * num, b.2.2.2 + exp)

def siluB (p : Nat) (neg : Bool) (num : Nat) (exp : Int) : Bounds :=
  let e := floorLog2 num exp
  if e < -80 then (if neg then justBelow neg num (exp - 1) else justAbove neg num (exp - 1))
  else if !neg && decide (e ≥ 8) then justBelow neg num exp
  else timesB (sigmoidB p neg num exp) neg num exp

/-- log (1 + e^x). -/
def softplusB (p : Nat) (neg : Bool) (num : Nat) (exp : Int) : Bounds :=
  let e := floorLog2 num exp
  if !neg && decide (e ≥ 7) then justAbove false num exp
  else if neg && decide (e ≥ 6) then
    -- e^x (1 − e^x) < log (1 + e^x) < e^x.
    if e ≥ 14 then (false, 2 ^ 200, 2 ^ 201, -20000)
    else
      let u := expParts p true num exp
      let lo := u.1 - 4
      (false, lo - (lo >>> 60) - 1, u.1 + 4, u.2 - p)
  else
    let o := onePlusU p num exp
    let l := logFx p o.1 (-(p : Nat))
    let x : Int := if neg then 0 else toFx (p + 32) num exp
    around (l + x) (2 ^ 42) (-(p + 32 : Nat))

/-- Sum of w^n 2^n / (1 · 3 ⋯ (2n + 1)), `y` = 2w. -/
def erfSum (w y : Nat) : Nat → Nat → Nat → Nat → Nat
  | 0, _, _, acc => acc
  | fuel + 1, k, t, acc =>
    let t := ((t * y) >>> w) / k
    if t = 0 then acc else erfSum w y fuel (k + 2) t (acc + t)

/-- √π in units of 2^−`w`. -/
def sqrtPi (w : Nat) : Nat := isqrt (piFx w <<< w) (w + 2) 0

/-- erf |x| in units of 2^−`p`, for |x| below 16: 2 x e^(−x²) Σ (2x²)^n / (2n+1)!! / √π. -/
def erfFx (p num : Nat) (exp : Int) : Nat :=
  let w := p + 800
  let y := toFx w (num * num) (2 * exp + 1)
  let s := erfSum w y (4 * w) 3 (2 ^ w) (2 ^ w)
  let ex := expParts w true (num * num) (2 * exp)
  let se := toFx w ((s * ex.1) >>> w) (ex.2 - w)
  let x := toFx w num exp
  ((2 * x * se) / sqrtPi w) >>> 800

def erfB (p : Nat) (neg : Bool) (num : Nat) (exp : Int) : Bounds :=
  let e := floorLog2 num exp
  if e < -80 then
    -- 2 x / √π, less a relative 2^−160.
    let w := p + 64
    let r := (num <<< (2 * w + 1)) / sqrtPi w
    (neg, r - (r >>> 150) - num * 2 ^ 20, r + num * 2 ^ 20, exp - (w : Nat))
  else if e ≥ 4 then justBelow neg 1 0
  else
    let r := erfFx p num exp
    (neg, r - 2 ^ 16, r + 2 ^ 16, -(p : Nat))

/-- gelu x = x (1 + erf (x / √2)) / 2; erf (x / √2) = √(2/π) x e^(−x²/2) Σ x^(2n) / (2n+1)!!. -/
def geluB (p : Nat) (neg : Bool) (num : Nat) (exp : Int) : Bounds :=
  let e := floorLog2 num exp
  if e < -80 then (if neg then justBelow neg num (exp - 1) else justAbove neg num (exp - 1))
  else if decide (e ≥ 6) then
    if neg then (neg, 2 ^ 200, 2 ^ 201, -20000) else justBelow neg num exp
  else
    let p2 := p + 3000
    let w := p2 + 3100
    let y := toFx w (num * num) (2 * exp)
    let s := erfSum w y (4 * w) 3 (2 ^ w) (2 ^ w)
    let ex := expParts w true (num * num) (2 * exp - 1)
    let se := toFx w ((s * ex.1) >>> w) (ex.2 - w)
    let x := toFx w num exp
    let c := isqrt ((2 ^ (3 * w + 1)) / piFx w) (w + 2) 0
    let r := ((((x * se) >>> w) * c) >>> w) >>> 3100
    let h := if neg then 2 ^ p2 - r else 2 ^ p2 + r
    timesB (false, h - 2 ^ 24, h + 2 ^ 24, -(p2 + 1 : Nat)) neg num exp

/-- sin x (`co` false) or cos x (`co` true) by reduction modulo π / 2. -/
def trigB (co : Bool) (p : Nat) (neg : Bool) (num : Nat) (exp : Int) : Bounds :=
  let e := floorLog2 num exp
  if e < -80 then (if co then justBelow false 1 0 else justBelow neg num exp)
  else
    let w := p + 64 + 2 * e.toNat
    let x := toFx w num exp
    let h := piFx w / 2
    let k := x / h
    let r := x - k * h
    let r := r >>> (w - (p + 32))
    let w := p + 32
    let r2 := (r * r) >>> w
    let sn := trigSum w r2 w 2 r r true
    let cs := trigSum w r2 w 1 (2 ^ w) (2 ^ w) true
    let k4 := (k + (if co then 1 else 0)) % 4
    let v := if k4 = 0 then sn else if k4 = 1 then cs else if k4 = 2 then -sn else -cs
    let v := if neg && !co then -v else v
    around v (2 ^ 24) (-(w : Nat))

/-- The rounding that both ends of a bound agree on, the value lying strictly between them. -/
def settleB (f : Fmt) (b : Bounds) : Option (Nat × Flags) :=
  if b.2.1 = 0 || Nat.log2 b.2.1 < f.prec + 4 then none
  else
    let lo := f.convert (.fin b.1 (2 * b.2.1 + 1) (b.2.2.2 - 1)) false .rne false
    let hi := f.convert (.fin b.1 (2 * b.2.2.1 - 1) (b.2.2.2 - 1)) false .rne false
    if lo = hi then some lo else none

/-- The function under a code of R140 that is computed by bounds. -/
def funB (code p : Nat) (neg : Bool) (num : Nat) (exp : Int) : Bounds :=
  match code with
  | 0x00 => expB p neg num exp
  | 0x01 => exp2B p neg num exp
  | 0x02 => logB p neg num exp
  | 0x03 => log2B p neg num exp
  | 0x06 => tanhB p neg num exp
  | 0x07 => sigmoidB p neg num exp
  | 0x08 => geluB p neg num exp
  | 0x09 => siluB p neg num exp
  | 0x0B => softplusB p neg num exp
  | 0x0C => erfB p neg num exp
  | 0x0D => trigB false p neg num exp
  | _ => trigB true p neg num exp

/-- Bounds at rising precisions until one settles. -/
def zivLoop (f : Fmt) (code : Nat) (neg : Bool) (num : Nat) (exp : Int) : List Nat → Option (Nat × Flags)
  | [] => none
  | p :: t =>
    match settleB f (funB code p neg num exp) with
    | some r => some r
    | none => zivLoop f code neg num exp t

/-- An elementary function at a finite operand where its value is no number of the format (R53). -/
def funFinite (f : Fmt) (code : Nat) (neg : Bool) (num : Nat) (exp : Int) : Nat × Flags :=
  match zivLoop f code neg num exp [192, 384, 768, 1536, 3072, 6144] with
  | some r => r
  | none => (Config.funUnresolved code f.width (num % 2 ^ f.width) % 2 ^ f.width, flagNX)

/-- e^x of an exact value, for vsmax (R75). -/
def expX (f : Fmt) (x : XVal) : Nat × Flags :=
  match x with
  | .nan => (f.nan, 0)
  | .inf neg => if neg then (0, 0) else (f.infEnc false, 0)
  | .fin neg num exp =>
    if num = 0 then f.convert (.fin false 1 0) false .rne false else funFinite f 0 neg num exp

/-- Whether `num` × 2^`exp` is an integer. -/
def isWhole (num : Nat) (exp : Int) : Bool := decide (0 ≤ exp) || num % 2 ^ (-exp).toNat == 0

/-- vfun at a finite operand. -/
def vfunFin (f : Fmt) (code w : Nat) (neg : Bool) (num : Nat) (exp : Int) : Nat × Flags :=
  let one := f.convert (.fin false 1 0) false .rne false
  let zero := num == 0
  match code with
  | 0x04 =>
    if zero then (f.infEnc neg, flagDZ)
    else if neg then (f.nan, flagNV)
    else
      -- 1 / √x: the root of the quotient, with sticky bits at both roundings.
      let d := (XVal.fin false 1 0).div (2 * f.prec + 8) (.fin false num exp)
      let r := d.1.sqrt (f.prec + 3)
      f.convert r.1 false .rne false
  | 0x05 => fpDiv f .rne one.1 w
  | 0x0A => if neg || zero then (0, 0) else (w, 0)
  | 0x02 | 0x03 =>
    if zero then (f.infEnc true, flagDZ)
    else if neg then (f.nan, flagNV)
    else
      let l := floorLog2 num exp
      if num = 2 ^ Nat.log2 num then
        if code = 0x03 then f.convert (.fin (decide (l < 0)) l.natAbs 0) false .rne false
        else if l = 0 then (0, 0)
        else funFinite f code neg num exp
      else funFinite f code neg num exp
  | 0x00 | 0x0E => if zero then one else funFinite f code neg num exp
  | 0x01 =>
    if zero then one
    else if isWhole num exp then
      if floorLog2 num exp ≥ 14 then funFinite f code neg num exp
      else
        let k : Int := toFx 0 num exp
        f.convert (.fin false 1 (if neg then -k else k)) false .rne false
    else funFinite f code neg num exp
  | 0x07 => if zero then f.convert (.fin false 1 (-1)) false .rne false else funFinite f code neg num exp
  | 0x0B =>
    if zero then funFinite f 0x02 false 2 0 else funFinite f code neg num exp
  | _ => if zero then (w, 0) else funFinite f code neg num exp

/-- vfun: function code, operand (R140, R53). -/
def vfunElem (f : Fmt) (code w : Nat) : Nat × Flags :=
  match f.value w with
  | .nan => (f.nan, flagIf (f.snan w) flagNV)
  | .inf neg =>
    match code with
    | 0x00 | 0x01 | 0x0B => if neg then (0, 0) else (f.infEnc false, 0)
    | 0x02 | 0x03 => if neg then (f.nan, flagNV) else (f.infEnc false, 0)
    | 0x04 => if neg then (f.nan, flagNV) else (0, 0)
    | 0x05 => (f.signBit neg, 0)
    | 0x06 | 0x0C => f.convert (.fin neg 1 0) false .rne false
    | 0x07 => if neg then (0, 0) else f.convert (.fin false 1 0) false .rne false
    | 0x08 | 0x09 => if neg then (Config.funAtNegInf code f.width % 2 ^ f.width, 0) else (f.infEnc false, 0)
    | 0x0A => if neg then (0, 0) else (w, 0)
    | _ => (f.nan, flagNV)
  | .fin neg num exp => vfunFin f code w neg num exp

end Sys2Proof.Machine
end

