-- ==== Sys2Proof/Machine/Vector.lean ====
section
/-! DEFINITION. Vector operands (R120 to R125) and the element-wise, immediate, conversion and quantisation
families (R139 to R145). -/

namespace Sys2Proof.Machine

/-! ### Formats -/

/-- The formats under the codes of R121. -/
def fmtOf : Nat → Option Fmt
  | 0x0 => some .f64
  | 0x1 => some .lf48
  | 0x2 => some .f32
  | 0x3 => some .f16
  | 0x4 => some .bf16
  | 0x5 => some .e4m3
  | 0x6 => some .e5m2
  | 0x7 => some .e3m2
  | 0x8 => some .e2m3
  | 0x9 => some .e2m1
  | 0xA => some .e8m0
  | 0xB => some .i32
  | 0xC => some .i16
  | 0xD => some .i8
  | 0xE => some .i4
  | _ => none

/-- The format under a code, where the code is in a list. -/
def fmtIn (codes : List Nat) (c : Nat) : Option Fmt := if codes.contains c then fmtOf c else none

/-- Register width (R120). -/
def Fmt.regW : Fmt → Nat
  | .f64 => 64 | .lf48 => 64 | .f32 => 32 | .f16 => 16 | .bf16 => 16 | .e4m3 => 8 | .e5m2 => 8
  | .e3m2 => 8 | .e2m3 => 8 | .e2m1 => 4 | .e8m0 => 8 | .i32 => 32 | .i16 => 16 | .i8 => 8 | .i4 => 4

/-- An encoding widened as a bit move (R38, R144). -/
def widenBits (src dst : Fmt) (w : Nat) : Nat :=
  if src = dst then w
  else match src.value w with
    | .nan =>
      dst.signBit (w.testBit (src.width - 1)) + (2 ^ dst.ebits - 1) * 2 ^ dst.frac +
        (w % 2 ^ src.frac) * 2 ^ (dst.frac - src.frac)
    | .inf neg => dst.infEnc neg
    | .fin neg num exp => (dst.convert (.fin neg num exp) false .rne false).1

/-! ### Length and activity (R122, R123) -/

/-- VEC_CTRL.GROUP as G. -/
def Core.group (c : Core) : Nat := 2 ^ W64.fld (c.cr nVCTRL) 5 4

/-- VEC_CTRL.VL. -/
def Core.vl (c : Core) : Nat := W64.fld (c.cr nVCTRL) 31 16

def Core.setVl (c : Core) (vl : Nat) : Core := c.setCr nVCTRL (W64.setFld (c.cr nVCTRL) 31 16 vl)

/-- VLMAX under a group for a wide operand. -/
def vlMax (g wmax : Nat) : Nat := g * 4096 / wmax

/-- The group, the positions and the mask of an instruction. -/
structure Shape where
  g : Nat
  n : Nat
  mask : Nat

def Core.shape (c : Core) (wmax k : Nat) : Shape :=
  ⟨c.group, min c.vl (vlMax c.group wmax), (c.arch.rk k).toNat⟩

def Shape.act (h : Shape) (i : Nat) : Bool := decide (i < h.n) && h.mask.testBit i

/-- The active elements, rising. -/
def Shape.elems (h : Shape) : List Nat := (List.range h.n).filter fun i => h.mask.testBit i

def Shape.all (h : Shape) : Bool := (List.range h.n).all fun i => h.mask.testBit i

/-! ### Operands (R124) -/

/-- A vector operand: first register, width of its elements, number of registers. -/
structure VOp where
  reg : Nat
  w : Nat
  r : Nat

/-- An operand of width `w` of an instruction whose wide operand has width `wmax`. -/
def vop (g wmax reg w : Nat) : VOp := ⟨reg, w, max 1 (g * w / wmax)⟩

/-- An operand of one register. -/
def vone (reg w : Nat) : VOp := ⟨reg, w, 1⟩

def VOp.odd (o : VOp) : Bool := o.reg % o.r != 0

/-- A destination that overlaps a source and does not coincide with it. -/
def VOp.clash (d o : VOp) : Bool :=
  !(d.reg == o.reg && d.r == o.r) && decide (d.reg < o.reg + o.r) && decide (o.reg < d.reg + d.r)

def badSrcs (srcs : List VOp) : Bool := srcs.any VOp.odd

/-- A breach of R124. -/
def badOps (d : VOp) (srcs : List VOp) : Bool := d.odd || badSrcs srcs || srcs.any fun o => d.clash o

/-- The codes of an operand's registers. -/
def VOp.codes (o : VOp) : List Nat := codeVs o.reg o.r

/-- The codes of the registers that an instruction writes whole. -/
def VOp.whole (o : VOp) (n : Nat) (all : Bool) : List Nat := if all then codeVs o.reg (n * o.w / 4096) else []

/-- Element `i` of an operand. -/
def Arch.el (a : Arch) (o : VOp) (i : Nat) : Nat := elemAt (a.rv (o.reg + o.w * i / 4096)) o.w (i % (4096 / o.w))

/-- A register with element `i` replaced. -/
def putElem (v : VReg) (w i x : Nat) : VReg :=
  (v &&& ~~~(BitVec.ofNat 4096 ((2 ^ w - 1) <<< (w * i)))) ||| BitVec.ofNat 4096 ((x % 2 ^ w) <<< (w * i))

def Arch.putEl (a : Arch) (o : VOp) (i x : Nat) : Arch :=
  let r := o.reg + o.w * i / 4096
  a.setV r (putElem (a.rv r) o.w (i % (4096 / o.w)) x)

def Arch.putEls (a : Arch) (o : VOp) (out : List (Nat × Nat)) : Arch := out.foldl (fun a e => a.putEl o e.1 e.2) a

/-- An element's number, its result and the flags it raises. -/
abbrev ElRes := Nat × Nat × Flags

def allFlags (out : List ElRes) : Flags := out.foldl (fun f e => f ||| e.2.2) 0

/-- Write the results of active elements; a trap leaves the destination as it is (R56). -/
def vecWrite (s : State) (n : Nat) (o : VOp) (out : List ElRes) : Res :=
  withFlags s n (allFlags out) fun s =>
    .ok (s.updCore n fun c => { c with arch := c.arch.putEls o (out.map fun e => (e.1, e.2.1)) })

/-- Write bits of a mask register. -/
def maskWrite (s : State) (n k : Nat) (out : List ElRes) : Res :=
  withFlags s n (allFlags out) fun s =>
    .ok (s.updCore n fun c =>
      let m := out.foldl (fun m e =>
        if e.2.1 = 1 then m ||| 2 ^ e.1 else if m.testBit e.1 then m - 2 ^ e.1 else m) (c.arch.rk k).toNat
      { c with arch := c.arch.setK k (BitVec.ofNat 8192 m) })

/-! ### Element-wise operations -/

/-- Where the b operand of an element-wise operation comes from (R144, R145). -/
inductive BSrc where
  | none
  | reg (n : Nat)
  | imm (v : Nat)
  | rows (n : Nat)
deriving DecidableEq, Repr

/-- An element-wise operation; op 0x10 copies b. -/
structure Ew where
  fmt : Fmt
  op : Nat
  d : Nat
  a : Nat
  k : Nat
  b : BSrc
deriving DecidableEq, Repr

/-- An element of major 0x28 (R139): rounding, a, b and the old d. -/
def fpElem (op : Nat) (f : Fmt) (m : Rnd) (x y c : Nat) : Nat × Flags :=
  match op with
  | 0x0 => fpAdd f m x y
  | 0x1 => fpSub f m x y
  | 0x2 => fpMul f m x y
  | 0x3 => fpDiv f m x y
  | 0x4 => fpFma f m false c x y
  | 0x5 => fpMin f x y
  | 0x6 => fpMax f x y
  | 0x7 => fpSqrt f m x
  | 0x8 => (b1 (fpEq f x y).1, (fpEq f x y).2)
  | 0x9 => (b1 (fpLt f x y).1, (fpLt f x y).2)
  | 0xA => (b1 (fpLe f x y).1, (fpLe f x y).2)
  | 0xB => (x % 2 ^ (f.width - 1), 0)
  | 0xC => (x ^^^ 2 ^ (f.width - 1), 0)
  | _ => (y, 0)

/-- An element of major 0x29 (R141), of width w. -/
def intElem (op w x y : Nat) : Nat :=
  let sh := y % w
  match op with
  | 0x0 => (x + y) % 2 ^ w
  | 0x1 => (x + 2 ^ w - y) % 2 ^ w
  | 0x2 => (x * y) % 2 ^ w
  | 0x3 => if sint w y < sint w x then y else x
  | 0x4 => if sint w x < sint w y then y else x
  | 0x5 => x &&& y
  | 0x6 => x ||| y
  | 0x7 => x ^^^ y
  | 0x8 => (x <<< sh) % 2 ^ w
  | 0x9 => x >>> sh
  | 0xA => uint w (sint w x / (2 ^ sh : Nat))
  | 0xB => b1 (x == y)
  | 0xC => b1 (decide (sint w x < sint w y))
  | _ => y

/-- A comparison, which writes a mask register. -/
def Ew.compares (e : Ew) : Bool :=
  if e.fmt.isInt then e.op == 0xB || e.op == 0xC else decide (0x8 ≤ e.op ∧ e.op ≤ 0xA)

/-- vsel: k selects and does not mask. -/
def Ew.selects (e : Ew) : Bool := e.op == 0xD

/-- vfma reads its destination. -/
def Ew.fused (e : Ew) : Bool := !e.fmt.isInt && e.op == 0x4

/-- The rounding of a result (R50). -/
def Core.rndFor (c : Core) (f : Fmt) : Rnd :=
  match f with
  | .f64 => c.rnd
  | .f32 => c.rnd
  | _ => .rne

/-- Element `i` of the b operand. -/
def Arch.bEl (a : Arch) (w : Nat) (b : BSrc) (i : Nat) : Nat :=
  match b with
  | .none => 0
  | .reg n => a.el (vone n w) i
  | .imm v => v
  | .rows n => elemAt (a.row (n + w * i / 4096)) w (i % (4096 / w))

/-- The results of an element-wise operation. -/
def Core.ewOut (c : Core) (e : Ew) : List ElRes :=
  let w := e.fmt.regW
  let h := c.shape w e.k
  let r := c.arch
  let a := vone e.a w
  if e.selects then (List.range h.n).map fun i => (i, if h.mask.testBit i then r.el a i else r.bEl w e.b i, 0)
  else h.elems.map fun i =>
    if e.fmt.isInt then (i, intElem e.op w (r.el a i) (r.bEl w e.b i), 0)
    else (i, fpElem e.op e.fmt (c.rndFor e.fmt) (r.el a i) (r.bEl w e.b i) (if e.fused then r.el (vone e.d w) i else 0))

/-- The vector operands of an element-wise operation: destination and sources. -/
def Ew.srcs (e : Ew) (g : Nat) : List VOp :=
  let w := e.fmt.regW
  vop g w e.a w :: match e.b with
    | .reg n => [vop g w n w]
    | _ => []

def Ew.dst (e : Ew) (g : Nat) : VOp := vop g e.fmt.regW e.d e.fmt.regW

/-- Rows of a Sorrel operand (R124). -/
def Ew.rows (e : Ew) (g : Nat) : List Nat :=
  match e.b with
  | .rows n => (List.range g).map fun i => n + i
  | _ => []

/-- R124, R136, R139, R141. -/
def ewBody (n : Nat) (F : Form) (e : Ew) (s : State) : Res :=
  let c := s.core n
  let g := c.group
  let bad := if e.compares then badSrcs (e.srcs g) || decide (e.d ≥ 8) else badOps (e.dst g) (e.srcs g)
  if bad then illegal F s
  else match (e.rows g).find? fun r => decide (r ≥ 512) with
    | some r => .trap s 0x30 (BitVec.ofNat 64 r)
    | none =>
      if e.compares then maskWrite s n e.d (c.ewOut e) else vecWrite s n (e.dst g) (c.ewOut e)

/-- Run an element-wise operation, none where its encoding is reserved. -/
def runEw (x : Ctx) (F : Form) (e : Option Ew) (s : State) : State :=
  match e with
  | none => runForm x F [] [] s fun s => illegal F s
  | some e =>
    let c := s.core x.core
    let g := c.group
    let h := c.shape e.fmt.regW e.k
    let reads := ((e.srcs g).map VOp.codes).flatten ++ codeK e.k ++ (e.rows g).map (fun r => 0x200 + r) ++
      (if e.fused then (e.dst g).codes else [])
    let writes := if e.compares then [] else (e.dst g).whole h.n (h.all || e.selects)
    runForm x F reads writes s fun s => ewBody x.core F e s

/-- The b operand that mod of a long form selects (R145); none where the fields are not allowed. -/
def longB (f : Fmt) (F : Form) (imm : W32) : Option BSrc :=
  let v := imm.toNat
  match F.md with
  | 0 => if v = 0 then some (.reg F.b) else none
  | 2 =>
    if F.b ≠ 0 then none
    else if f.isInt then some (.imm (v % 2 ^ f.width))
    else match f with
      | .f64 => some (.imm (widenF32 v))
      | .f32 => some (.imm v)
      | _ => if v < 2 ^ 16 then some (.imm v) else none
  | 4 => if F.b ≠ 0 ∨ v ≥ 512 then none else some (.rows v)
  | _ => none

/-- Formats of the immediate and long forms (R144, R145). -/
def fpFmt2 : Nat → Fmt
  | 0 => .f64
  | 1 => .f32
  | 2 => .f16
  | _ => .bf16

def intFmt2 : Nat → Option Fmt
  | 0 => some .i32
  | 1 => some .i16
  | 2 => some .i8
  | _ => none

/-- vsqrt, vabs and vneg take no b. -/
def fpUnary (op : Nat) : Bool := op == 0x7 || op == 0xB || op == 0xC

/-- Major 0x28 without vfun (R138, R139). -/
def fpShort (F : Form) : Option Ew :=
  let op := F.func / 16
  match fmtIn [0x0, 0x2, 0x3, 0x4] (F.func % 16) with
  | none => none
  | some f =>
    if op ≥ 0xE then none
    else if fpUnary op then (if F.b = 0 then some ⟨f, op, F.d, F.a, F.k, .none⟩ else none)
    else some ⟨f, op, F.d, F.a, F.k, .reg F.b⟩

/-- Long ops 0x40 to 0x7F without vfun (R145). -/
def fpLong (n : Nat) (F : Form) (imm : W32) : Option Ew :=
  let op := n / 4 % 16
  let f := fpFmt2 (n % 4)
  if op ≥ 0xE ∨ n < 0x40 ∨ 0x7F < n then none
  else match longB f F imm with
    | none => none
    | some b =>
      if fpUnary op then (if F.md = 0 ∧ F.b = 0 then some ⟨f, op, F.d, F.a, F.k, .none⟩ else none)
      else some ⟨f, op, F.d, F.a, F.k, b⟩

/-- Major 0x29 (R138, R141). -/
def intShort (F : Form) : Option Ew :=
  match fmtIn [0xB, 0xC, 0xD] (F.func % 16) with
  | none => none
  | some f => if F.func / 16 ≥ 0xE then none else some ⟨f, F.func / 16, F.d, F.a, F.k, .reg F.b⟩

/-- Long ops 0x80 to 0xBF (R145). -/
def intLong (n : Nat) (F : Form) (imm : W32) : Option Ew :=
  let op := n / 4 % 16
  match intFmt2 (n % 4) with
  | none => none
  | some f =>
    if op ≥ 0xE ∨ n < 0x80 ∨ 0xBF < n then none
    else (longB f F imm).map fun b => ⟨f, op, F.d, F.a, F.k, b⟩

/-- R139. -/
def execFloatingPointElementWise (x : Ctx) (f : RL) (s : State) : Out :=
  .next (match f with
    | .short f => runEw x (formR 0x28 f) (fpShort (formR 0x28 f)) s
    | .long op f => runEw x (formL op.toNat f) (fpLong op.toNat (formL op.toNat f) f.imm) s)

/-- R141. -/
def execIntegerElementWise (x : Ctx) (f : RL) (s : State) : Out :=
  .next (match f with
    | .short f => runEw x (formR 0x29 f) (intShort (formR 0x29 f)) s
    | .long op f => runEw x (formL op.toNat f) (intLong op.toNat (formL op.toNat f) f.imm) s)

/-! ### vfun (R140) -/

/-- A run of vfun with its format and function code. -/
def runVfun (x : Ctx) (F : Form) (fmt : Option Fmt) (s : State) : State :=
  match fmt with
  | none => runForm x F [] [] s fun s => illegal F s
  | some f =>
    let w := f.regW
    let c := s.core x.core
    let h := c.shape w F.k
    let d := vop h.g w F.d w
    let a := vop h.g w F.a w
    runForm x F (a.codes ++ codeK F.k) (d.whole h.n h.all) s fun s =>
      if badOps d [a] || decide (F.b ≥ 0x0F) then illegal F s
      else
        let r := (s.core x.core).arch
        vecWrite s x.core d (h.elems.map fun i => (i, vfunElem f F.b (r.el a i)))

/-- R140, R53. -/
def execVfun (x : Ctx) (f : RL) (s : State) : Out :=
  .next (match f with
    | .short f => runVfun x (formR 0x28 f) (fmtIn [0x0, 0x2, 0x3, 0x4] (f.func.toNat % 16)) s
    | .long op f =>
      runVfun x (formL op.toNat f) (if f.md = 0 ∧ f.imm = 0 then some (fpFmt2 (op.toNat % 4)) else none) s)

/-! ### Immediate forms (R144) -/

/-- Major 0x2C: T, fmt and op stand in the field `a`. -/
def fpImm (F : Form) (imm : BitVec 16) : Option Ew :=
  let f := fpFmt2 (F.a / 4 % 4)
  let src : Fmt := if F.a / 16 = 1 then .bf16 else .f16
  let op := match F.a % 4 with
    | 0 => 0x0
    | 1 => 0x2
    | 2 => 0x6
    | _ => 0x10
  if f.width = 16 ∧ f ≠ src then none
  else some ⟨f, op, F.d, F.d, 0, .imm (widenBits src f imm.toNat)⟩

/-- Major 0x2D. -/
def intImm (F : Form) (imm : BitVec 16) : Option Ew :=
  match intFmt2 (F.a % 4) with
  | none => none
  | some f =>
    let op := match F.a / 16 * 4 + F.a / 4 % 4 with
      | 0 => 0x0
      | 1 => 0x5
      | 2 => 0x6
      | 3 => 0x7
      | 4 => 0x8
      | 5 => 0x9
      | 6 => 0xA
      | _ => 0x10
    some ⟨f, op, F.d, F.d, 0, .imm (uint f.width imm.toInt)⟩

def execFloatingPointImmediate (x : Ctx) (f : IF) (s : State) : Out :=
  .next (runEw x (formI 0x2C f) (fpImm (formI 0x2C f) f.imm) s)

def execIntegerImmediate (x : Ctx) (f : IF) (s : State) : Out :=
  .next (runEw x (formI 0x2D f) (intImm (formI 0x2D f) f.imm) s)

/-! ### Conversion (R142) -/

/-- The rounding of element `i` of a stochastic conversion (R64, R65). -/
def Core.srFor (c : Core) (i : Nat) : Rnd :=
  let task : W32 := match c.task with
    | some t => t.q.d.taskid
    | none => 0
  srRnd (c.cr 0x002) task (c.cr 0x003 + BitVec.ofNat 64 i)

/-- Formats of a conversion: two different ones, E8M0 with FP32 and FP64 only (R142). -/
def cvtFmts (F : Form) : Option (Fmt × Fmt) :=
  let ok := fun c => c == 0 || decide (2 ≤ c ∧ c ≤ 0xE)
  let t := F.func % 16
  if !ok t || !ok F.b || t == F.b then none
  else if (t = 0xA ∧ F.b ≠ 0 ∧ F.b ≠ 2) ∨ (F.b = 0xA ∧ t ≠ 0 ∧ t ≠ 2) then none
  else match fmtOf F.b, fmtOf t with
    | some a, some b => some (a, b)
    | _, _ => none

/-- The rounding of a conversion (R50, R61). -/
def Core.cvtRnd (c : Core) (src dst : Fmt) : Rnd :=
  if dst = .f64 ∨ dst = .f32 ∨ (dst.isInt ∧ (src = .f64 ∨ src = .f32)) then c.rnd else .rne

/-- Run a conversion between two formats, with the rounding of each element. -/
def runCvt (x : Ctx) (F : Form) (fs : Option (Fmt × Fmt)) (rnd : Core → Nat → Rnd) (s : State) : State :=
  match fs with
  | none => runForm x F [] [] s fun s => illegal F s
  | some (src, dst) =>
    let wmax := max src.regW dst.regW
    let h := (s.core x.core).shape wmax F.k
    let a := vop h.g wmax F.a src.regW
    let d := vop h.g wmax F.d dst.regW
    runForm x F (a.codes ++ codeK F.k) (d.whole h.n h.all) s fun s =>
      if badOps d [a] then illegal F s
      else
        let c := s.core x.core
        vecWrite s x.core d (h.elems.map fun i => (i, convertEnc src dst (c.arch.el a i) (rnd c i) c.nosat))

def execVcvt (x : Ctx) (f : RF) (s : State) : Out :=
  let F := formR 0x2A f
  let fs := cvtFmts F
  .next (runCvt x F fs (fun c _ => match fs with
    | some (a, b) => c.cvtRnd a b
    | none => .rne) s)

/-- The targets of R50's third row. -/
def srTargets : List Nat := [0x3, 0x4, 0x5, 0x6, 0x7, 0x8, 0x9, 0xC, 0xD, 0xE]

def execVcvtSr (x : Ctx) (f : RF) (s : State) : Out :=
  let F := formR 0x2A f
  .next (runCvt x F (if srTargets.contains (F.func % 16) then cvtFmts F else none) (fun c i => c.srFor i) s)

/-! ### amax (R142, R47) -/

/-- The format of vamax: func [3:0] equals b. -/
def amaxFmt (F : Form) : Option Fmt :=
  if F.func % 16 = F.b then fmtIn [0x0, 0x2, 0x3, 0x4, 0x5, 0x6] F.b else none

/-- Run a vamax whose results the source elements give. -/
def runAmax (x : Ctx) (F : Form) (out : Fmt → Shape → VOp → Arch → List ElRes) (readD : Bool) (s : State) : State :=
  match amaxFmt F with
  | none => runForm x F [] [] s fun s => illegal F s
  | some f =>
    let w := f.regW
    let h := (s.core x.core).shape w F.k
    let a := vop h.g w F.a w
    let d := vone F.d w
    runForm x F (a.codes ++ codeK F.k ++ if readD then d.codes else []) [] s fun s =>
      if badOps d [a] then illegal F s
      else vecWrite s x.core d (out f h a (s.core x.core).arch)

def execVamaxMx (x : Ctx) (f : RF) (s : State) : Out :=
  .next (runAmax x (formR 0x2A f) (fun f h a r =>
    (List.range ((h.n + 31) / 32)).map fun j =>
      (j, amax f ((List.range 32).map fun i => (r.el a (32 * j + i), h.act (32 * j + i))))) false s)

def execVamaxT (x : Ctx) (f : RF) (s : State) : Out :=
  .next (runAmax x (formR 0x2A f) (fun fm h a r =>
    if h.n = 0 then []
    else [(0, amax fm ((r.el (vone f.d.toNat fm.regW) 0, true) :: (List.range h.n).map fun i => (r.el a i, h.act i)))]) true s)

/-! ### Quantisation (R143, R48, R49) -/

/-- Run vquant with its op bits: .sr, .t and BF16. -/
def runQuant (x : Ctx) (F : Form) (s : State) : State :=
  let op := F.func / 16
  match fmtIn [5, 6, 7, 8, 9] (F.func % 16) with
  | none => runForm x F [] [] s fun s => illegal F s
  | some fe =>
    let src : Fmt := if op ≥ 4 then .bf16 else .f32
    let w := src.regW
    let h := (s.core x.core).shape w F.k
    let a := vop h.g w F.a w
    let d := vop h.g w F.d fe.regW
    let m := vone F.b w
    let perTensor := op.testBit 1
    runForm x F (a.codes ++ m.codes ++ codeK F.k) (d.whole h.n h.all) s fun s =>
      if badOps d [a] ∨ op ≥ 8 then illegal F s
      else
        let c := s.core x.core
        let r := c.arch
        let blocks := if perTensor then (if h.elems.isEmpty then [] else [0])
          else (List.range ((h.n + 31) / 32)).filter fun j => (List.range 32).any fun i => h.act (32 * j + i)
        let code := fun j => scaleOf src (r.el m j) fe
        let clamp := blocks.foldl (fun (fl : Flags) j => fl ||| (code j).2) 0
        let out : List ElRes := h.elems.map fun i =>
          let q := quantElem src fe (r.el a i) (code (if perTensor then 0 else i / 32)).1
            (if op.testBit 0 then c.srFor i else .rne)
          (i, q.1, q.2 ||| clamp)
        vecWrite s x.core d out

def execVquant (x : Ctx) (f : RF) (s : State) : Out := .next (runQuant x (formR 0x2B f) s)

def execVscale (x : Ctx) (f : RF) (s : State) : Out :=
  let F := formR 0x2B f
  let op := F.func / 16
  .next (match fmtIn [5, 6, 7, 8, 9] (F.func % 16) with
    | none => runForm x F [] [] s fun s => illegal F s
    | some fe =>
      let src : Fmt := if op = 9 then .bf16 else .f32
      let w := src.regW
      let h := (s.core x.core).shape w F.k
      let a := vop h.g w F.a w
      let d := vop h.g w F.d 8
      runForm x F (a.codes ++ codeK F.k) (d.whole h.n h.all) s fun s =>
        if badOps d [a] ∨ (op ≠ 8 ∧ op ≠ 9) then illegal F s
        else
          let r := (s.core x.core).arch
          vecWrite s x.core d (h.elems.map fun i => (i, scaleOf src (r.el a i) fe)))

end Sys2Proof.Machine
end

