-- ==== Sys2Proof/Machine/VectorMem.lean ====
section
/-! DEFINITION. Vector memory and Sorrel instructions: major 0x2E without the tile moves (R128 to R136, R146,
R517). -/

namespace Sys2Proof.Machine

/-! ### Elements in memory (R44) -/

/-- An element's place in memory: its number, first byte, bytes and the bit it begins at. -/
structure Part where
  idx : Nat
  va : Nat
  len : Nat
  off : Nat
deriving DecidableEq, Repr

/-- Element `i` of an array at a base. -/
def memPart (f : Fmt) (base i : Nat) : Part :=
  let lo := f.width * i
  ⟨i, (base + lo / 8) % 2 ^ 64, (lo + f.width - 1) / 8 - lo / 8 + 1, lo % 8⟩

/-- Adjoining elements, as one span of bytes. -/
structure Run where
  va : Nat
  len : Nat
  parts : List Part
deriving DecidableEq, Repr

/-- Join adjoining elements. -/
def joinParts (ps : List Part) : List Run :=
  (ps.foldl (fun (rs : List Run) p =>
    match rs with
    | r :: t =>
      if r.va ≤ p.va ∧ p.va ≤ r.va + r.len then ⟨r.va, max r.len (p.va + p.len - r.va), p :: r.parts⟩ :: t
      else ⟨p.va, p.len, [p]⟩ :: rs
    | [] => [⟨p.va, p.len, [p]⟩]) []).reverse.map fun r => { r with parts := r.parts.reverse }

/-! ### Loads -/

/-- How the loads of a vector instruction end: values by element; a cause at an element, with those below it. -/
inductive Lds where
  | ok (s : State) (vals : List (Nat × Nat))
  | trap (s : State) (vals : List (Nat × Nat)) (idx cause : Nat) (tval : W64)
  | wait (s : State) (w : Wait)

/-- The bits of an element among the bytes of its run. -/
def Part.value (p : Part) (f : Fmt) (va : Nat) (bs : List Byte) : Nat :=
  (ofBytes ((bs.drop (p.va - va)).take p.len) >>> p.off) % 2 ^ f.width

/-- Load elements one after the other. -/
def State.loadEach (n : Nat) (up : List Upset) (how : LdHow) (f : Fmt) :
    List Part → List (Nat × Nat) → State → Lds
  | [], vals, s => .ok s vals
  | p :: t, vals, s =>
    match s.load n (s.core n).pl up how p.va p.len with
    | (.ok s bs, _) => State.loadEach n [] how f t (vals ++ [(p.idx, p.value f p.va bs)]) s
    | (.trap s c v, _) => .trap s vals p.idx c v
    | (.wait s w, _) => .wait s w

/-- Load runs of elements; the elements of a run that faults are taken one by one. -/
def State.loadRuns (n : Nat) (up : List Upset) (how : LdHow) (f : Fmt) :
    List Run → List (Nat × Nat) → State → Lds
  | [], vals, s => .ok s vals
  | r :: t, vals, s =>
    match s.load n (s.core n).pl up how r.va r.len with
    | (.ok s bs, _) => State.loadRuns n [] how f t (vals ++ r.parts.map fun p => (p.idx, p.value f r.va bs)) s
    | (.wait s w, _) => .wait s w
    | (.trap _ _ _, _) => State.loadEach n up how f r.parts vals s

/-- The cause of an instruction that is not resumable: the first of all its runs in the order of R107. The
remote data still out may bring 0x0A or 0x09. -/
def State.loadCause (n : Nat) (up : List Upset) (how : LdHow) :
    List Run → List (Nat × W64) → Option Wait → State → State × Option ((Nat × W64) ⊕ Wait)
  | [], cs, w, s =>
    match firstCause cs, w with
    | some c, some w => (s, some (if causeRank c.1 < causeRank 0x0A then .inl c else .inr w))
    | some c, none => (s, some (.inl c))
    | none, some w => (s, some (.inr w))
    | none, none => (s, none)
  | r :: t, cs, w, s =>
    match s.load n (s.core n).pl up how r.va r.len with
    | (.ok s _, _) => State.loadCause n [] how t cs w s
    | (.trap s c v, _) => State.loadCause n (if c = 0x09 then [] else up) how t (cs ++ [(c, v)]) w s
    | (.wait s x, _) => State.loadCause n [] how t cs (w <|> some x) s

/-- A load of runs of elements; one that is not resumable raises the first cause of all its elements (R107). -/
def State.loadSpan (s : State) (n : Nat) (up : List Upset) (how : LdHow) (f : Fmt) (res ff : Bool) (rs : List Run) :
    Lds :=
  match State.loadRuns n up how f rs [] s with
  | .trap s1 vals i k t =>
    if res || (ff && decide (0 < i) && (k == 0x03 || k == 0x09 || k == 0x0A)) then .trap s1 vals i k t
    else match State.loadCause n up how rs [] none s with
      | (s2, some (.inl c)) => .trap s2 [] i c.1 c.2
      | (s2, some (.inr w)) => .wait s2 w
      | (_, none) => .trap s1 vals i k t
  | r => r

/-- Loaded bits as a register holds them: LF48 widened (R42). -/
def regBits (f : Fmt) (v : Nat) : Nat := if f = .lf48 then widenLf48 v else v

def Core.putLoaded (c : Core) (f : Fmt) (d : VOp) (vals : List (Nat × Nat)) : Core :=
  { c with arch := c.arch.putEls d (vals.map fun v => (v.1, regBits f v.2)) }

/-- Written registers hold good parity again (R406). -/
def Core.healed (c : Core) (codes : List Nat) : Core :=
  { c with parity := c.parity.filter fun k => !codes.contains k }

/-- The element a resumable instruction continues from (R117). -/
def Core.startAt (c : Core) (res : Bool) : Nat := if res then (c.resumeAt 2).getD 0 else 0

/-- How a vector load goes on after its loads: `ff` under first-fault mode (R129), `res` where it is resumable
(R133). -/
def finishLoad (n : Nat) (f : Fmt) (d : VOp) (ff res : Bool) (r : Lds) : Res :=
  match r with
  | .ok s vals =>
    .ok (s.updCore n fun c =>
      let c := c.putLoaded f d vals
      if res then c.clearProgress else c)
  | .wait s w => .wait s w
  | .trap s vals i k t =>
    if ff && decide (0 < i) && (k == 0x03 || k == 0x09 || k == 0x0A) then
      .ok (s.updCore n fun c =>
        let c := (c.putLoaded f d vals).setVl i
        if res then c.clearProgress else c)
    else if res then .trap (s.updCore n fun c => (c.putLoaded f d vals).setProgress 2 i) k t
    else .trap s k t

/-- Unit-stride loads (R128 to R130, R133). -/
def runVld (x : Ctx) (f : RF) (mayFf : Bool) (s : State) : State :=
  let F := formR 0x2E f
  let n := x.core
  match fmtOf (F.func % 16) with
  | none => runForm x F [] [] s fun s => illegal F s
  | some fm =>
    let w := fm.regW
    let h := (s.core n).shape w F.k
    let d := vop h.g w F.d w
    let ff := mayFf && ((s.core n).cr nVCTRL).toNat.testBit 0
    let codes := d.whole h.n h.all
    runForm x F (codeG F.a ++ codeG F.b ++ codeK F.k) (if ff then [] else codes) s fun s =>
      let c := s.core n
      let res := decide (h.g > 1)
      if d.odd then illegal F s
      else
        let base := (c.arch.rg F.a + c.arch.rg F.b).toNat
        let ps := (h.elems.filter fun i => decide (c.startAt res ≤ i)).map (memPart fm base)
        match finishLoad n fm d ff res (s.loadSpan n x.up ⟨true, true, false⟩ fm res ff (joinParts ps)) with
        | .ok s => .ok (if ff && decide ((s.core n).vl = c.vl) then s.updCore n fun c => c.healed codes else s)
        | r => r

def execVld (x : Ctx) (f : RF) (s : State) : Out := .next (runVld x f false s)

def execVldff (x : Ctx) (f : RF) (s : State) : Out := .next (runVld x f true s)

/-! ### Stores -/

/-- An element to be stored, with its bits and the flags of its conversion (R43). -/
structure StElem where
  part : Part
  code : Nat
  fl : Flags
deriving DecidableEq, Repr

def stElem (f : Fmt) (p : Part) (v : Nat) : StElem :=
  if f = .lf48 then ⟨p, (narrowLf48 v).1, (narrowLf48 v).2⟩ else ⟨p, v % 2 ^ f.width, 0⟩

/-- Elements and bytes of a packed group (R44). -/
def packGroup (f : Fmt) : Nat × Nat := if f.width = 4 then (2, 1) else if f.width = 6 then (4, 3) else (1, 1)

/-- The bytes of a run of stored elements. -/
def runBytes (r : Run) (es : List StElem) : List Byte :=
  bytesOf r.len ((es.filter fun e => r.parts.contains e.part).foldl
    (fun v e => v ||| e.code <<< (8 * (e.part.va - r.va) + e.part.off)) 0)

/-- How the bytes of a run are stored: inactive neighbours keep their bits (R128, R517). -/
def runHow (f : Fmt) (base : Nat) (r : Run) (es : List StElem) : StHow :=
  if f.width % 8 = 0 then StHow.plain
  else
    let m := (es.filter fun e => r.parts.contains e.part).foldl
      (fun v e => v ||| (2 ^ f.width - 1) <<< (8 * (e.part.va - r.va) + e.part.off)) 0
    let g := packGroup f
    let idx := es.map fun e => e.part.idx
    { keep := fun i => ~~~(BitVec.ofNat 8 (m >>> (8 * i)))
      part := fun i =>
        let k := ((r.va + 2 ^ 64 - base) % 2 ^ 64 + i) / g.2
        (List.range g.1).any fun j => !idx.contains (g.1 * k + j)
      poison := fun _ => false }

/-- The cause that one element's store meets: of its address, or a trapping flag (R107, R56). -/
def State.elemFault (s : State) (n : Nat) (e : StElem) : Option (Nat × W64) :=
  match firstCause (s.span n .store (s.core n).pl e.part.va e.part.len).2.2 with
  | some c => some c
  | none => if e.fl &&& (s.core n).traps = 0 then none else some (0x06, e.fl.setWidth 64)

/-- The first element that meets a cause. -/
def State.firstFault (s : State) (n : Nat) : List StElem → Option (Nat × Nat × W64)
  | [] => none
  | e :: t =>
    match s.elemFault n e with
    | some c => some (e.part.idx, c.1, c.2)
    | none => State.firstFault s n t

/-- Store runs one after the other. -/
def State.storeRuns (n : Nat) (f : Fmt) (base : Nat) (es : List StElem) : List Run → State → St
  | [], s => .ok s
  | r :: t, s =>
    match s.store n r.va (runBytes r es) (runHow f base r es) true with
    | .ok s => State.storeRuns n f base es t s
    | x => x

def stFlags (es : List StElem) : Flags := es.foldl (fun f e => f ||| e.fl) 0

/-- Store elements; each one by itself where `alone`. -/
def State.storeElems (s : State) (n : Nat) (f : Fmt) (base : Nat) (alone : Bool) (es : List StElem) : St :=
  let ps := es.map fun e => e.part
  State.storeRuns n f base es (if alone then ps.map fun p => ⟨p.va, p.len, [p]⟩ else joinParts ps) s

/-- Store elements as one store, whole or not at all (R133). -/
def State.storeWhole (s : State) (n : Nat) (f : Fmt) (base : Nat) (es : List StElem) : St :=
  s.storeAll n ((joinParts (es.map fun e => e.part)).map fun r => ⟨r.va, runBytes r es, runHow f base r es⟩) true

/-- A vector store: by elements where it is resumable (R133), else whole or not at all. -/
def vecStore (s : State) (n : Nat) (f : Fmt) (base : Nat) (res alone : Bool) (es : List StElem) : Res :=
  let done := fun (s : State) (es : List StElem) => (s.raiseFlags n (stFlags es))
  if s.flagWait n (stFlags es) then .wait s .tiles
  else match s.firstFault n es with
    | none =>
      match (if res then s.storeElems n f base alone es else s.storeWhole n f base es) with
      | .ok s => .ok ((done s es).updCore n fun c => if res then c.clearProgress else c)
      | .trap s k t => .trap s k t
      | .wait s w => .wait s w
    | some (i, k, t) =>
      if res then
        let low := es.filter fun e => decide (e.part.idx < i)
        match s.storeElems n f base alone low with
        | .ok s =>
          let s := done s (if k = 0x06 then es.filter fun e => decide (e.part.idx ≤ i) else low)
          .trap (s.updCore n fun c => c.setProgress 2 i) k t
        | .trap s k t => .trap s k t
        | .wait s w => .wait s w
      else
        -- Address causes of any element come before the flags of all (R107).
        match firstCause (es.map fun e => (s.span n .store (s.core n).pl e.part.va e.part.len).2.2).flatten with
        | some c => .trap s c.1 c.2
        | none => .trap (done s es) 0x06 ((stFlags es).setWidth 64)

def execVst (x : Ctx) (f : RF) (s : State) : Out :=
  let F := formR 0x2E f
  let n := x.core
  .next (match fmtOf (F.func % 16) with
    | none => runForm x F [] [] s fun s => illegal F s
    | some fm =>
      let w := fm.regW
      let h := (s.core n).shape w F.k
      let d := vop h.g w F.d w
      runForm x F (codeG F.a ++ codeG F.b ++ codeK F.k ++ d.codes) [] s fun s =>
        let c := s.core n
        let res := decide (h.g > 1)
        if d.odd then illegal F s
        else
          let base := (c.arch.rg F.a + c.arch.rg F.b).toNat
          let es := (h.elems.filter fun i => decide (c.startAt res ≤ i)).map fun i =>
            stElem fm (memPart fm base i) (c.arch.el d i)
          vecStore s n fm base res false es)

/-! ### Gathers and scatters (R131, R132) -/

/-- The formats of vgat and vsct. -/
def gatFmts : List Nat := [0x0, 0x1, 0x2, 0x3, 0x4, 0xB, 0xC]

/-- Element `i` of a gather or scatter under its index. -/
def gatPart (f : Fmt) (base : W64) (ix i : Nat) : Part :=
  ⟨i, (base + BitVec.ofInt 64 (sint 32 ix * (f.width / 8 : Nat))).toNat, f.width / 8, 0⟩

def execVgat (x : Ctx) (f : RF) (s : State) : Out :=
  let F := formR 0x2E f
  let n := x.core
  .next (match fmtIn gatFmts (F.func % 16) with
    | none => runForm x F [] [] s fun s => illegal F s
    | some fm =>
      let wmax := max 32 fm.regW
      let h := (s.core n).shape wmax F.k
      let d := vop h.g wmax F.d fm.regW
      let b := vop h.g wmax F.b 32
      runForm x F (codeG F.a ++ codeK F.k ++ b.codes) (d.whole h.n h.all) s fun s =>
        let c := s.core n
        if badOps d [b] then illegal F s
        else
          let ps := (h.elems.filter fun i => decide (c.startAt true ≤ i)).map fun i =>
            gatPart fm (c.arch.rg F.a) (c.arch.el b i) i
          finishLoad n fm d false true (State.loadEach n x.up ⟨false, true, false⟩ fm ps [] s))

def execVsct (x : Ctx) (f : RF) (s : State) : Out :=
  let F := formR 0x2E f
  let n := x.core
  .next (match fmtIn gatFmts (F.func % 16) with
    | none => runForm x F [] [] s fun s => illegal F s
    | some fm =>
      let wmax := max 32 fm.regW
      let h := (s.core n).shape wmax F.k
      let d := vop h.g wmax F.d fm.regW
      let b := vop h.g wmax F.b 32
      runForm x F (codeG F.a ++ codeK F.k ++ b.codes ++ d.codes) [] s fun s =>
        let c := s.core n
        if badSrcs [d, b] then illegal F s
        else
          let es := (h.elems.filter fun i => decide (c.startAt true ≤ i)).map fun i =>
            stElem fm (gatPart fm (c.arch.rg F.a) (c.arch.el b i) i) (c.arch.el d i)
          vecStore s n fm 0 true true es)

/-! ### Sorrel (R134, R136) -/

/-- The first row above the store that an access would address. -/
def badRow (row count : Nat) : Option Nat := if 0 < count ∧ 512 < row + count then some (max row 512) else none

/-- vsget and vsput: fmt, k and b must be 0. -/
def badSorrel (F : Form) : Bool := F.func % 16 != 0 || F.k != 0

/-- G registers = Sorrel rows from g[a]. -/
def execVsget (x : Ctx) (f : RF) (s : State) : Out :=
  let F := formR 0x2E f
  let c := s.core x.core
  let g := c.group
  let row := (c.arch.rg F.a).toNat
  .next (runForm x F (codeG F.a ++ (List.range g).map fun i => 0x200 + row + i) (codeVs F.d g) s fun s =>
    if badSorrel F ∨ F.b ≠ 0 ∨ F.d % g ≠ 0 then illegal F s
    else match badRow row g with
      | some r => .trap s 0x30 (BitVec.ofNat 64 r)
      | none =>
        .ok (s.updCore x.core fun c =>
          { c with arch := (List.range g).foldl (fun (a : Arch) i => a.setV (F.d + i) (a.row (row + i))) c.arch }))

/-- Sorrel rows from g[a] = G registers. -/
def execVsput (x : Ctx) (f : RF) (s : State) : Out :=
  let F := formR 0x2E f
  let c := s.core x.core
  let g := c.group
  let row := (c.arch.rg F.a).toNat
  .next (runForm x F (codeG F.a ++ codeVs F.d g) ((List.range g).map fun i => 0x200 + row + i) s fun s =>
    if badSorrel F ∨ F.b ≠ 0 ∨ F.d % g ≠ 0 then illegal F s
    else match badRow row g with
      | some r => .trap s 0x30 (BitVec.ofNat 64 r)
      | none =>
        .ok (s.updCore x.core fun c =>
          { c with arch := (List.range g).foldl (fun (a : Arch) i => a.setRow (row + i) (a.rv (F.d + i))) c.arch }))

/-- Fill Sorrel rows from `i` on; a fault stops at its row (R133). -/
def fillRows (n : Nat) (up : List Upset) (va row : Nat) : Nat → Nat → State → Res
  | 0, _, s => .ok (s.updCore n Core.clearProgress)
  | k + 1, i, s =>
    match s.load n (s.core n).pl up ⟨true, true, false⟩ ((va + 512 * i) % 2 ^ 64) 512 with
    | (.ok s bs, _) =>
      fillRows n [] va row k (i + 1) (s.updCore n fun c =>
        ({ c with arch := c.arch.setRow (row + i) (BitVec.ofNat 4096 (ofBytes bs)) } : Core).healed [0x200 + row + i])
    | (.trap s c t, _) => .trap (s.updCore n fun c => c.setProgress 2 i) c t
    | (.wait s w, _) => .wait s w

/-- g[b] rows from memory at g[a] into Sorrel rows from g[d]. -/
def execVsfill (x : Ctx) (f : RF) (s : State) : Out :=
  let F := formR 0x2E f
  .next (runForm x F (codeG F.a ++ codeG F.b ++ codeG F.d) [] s fun s =>
    let c := s.core x.core
    let row := (c.arch.rg F.d).toNat
    let count := (c.arch.rg F.b).toNat
    if badSorrel F then illegal F s
    else match badRow row count with
      | some r => .trap s 0x30 (BitVec.ofNat 64 r)
      | none =>
        let i := c.startAt true
        fillRows x.core x.up (c.arch.rg F.a).toNat row (count - i) i s)

end Sys2Proof.Machine
end

