-- ==== Sys2Proof/Machine/Tile.lean ====
section
/-! DEFINITION. Tile registers: shapes, tcfg, release, loads and stores, moves through the vector unit (R150 to
R175, R137). -/

namespace Sys2Proof.Machine

/-! ### Geometry (R150 to R154) -/

def Tile.nRows (t : Tile) : Nat := W64.fld t.cfg 23 16
def Tile.rowB (t : Tile) : Nat := W64.fld t.cfg 8 0
def Tile.pair (t : Tile) : Bool := t.cfg.toNat.testBit 24
def Tile.configured (t : Tile) : Bool := t.cfg != 0
def Tile.row (t : Tile) (r : Nat) : TRow := Tab.get 0 t.rows r
def Tile.setRow (t : Tile) (r : Nat) (v : TRow) : Tile := { t with rows := Tab.set 0 t.rows r v }
def Tile.poisoned (t : Tile) (r : Nat) : Bool := t.poison.toNat.testBit r
def Tile.setPoison (t : Tile) (r : Nat) (b : Bool) : Tile := { t with poison := W64.setFld t.poison r r (b1 b) }

/-- An empty tile of the same shape (R157). -/
def Tile.emptied (t : Tile) : Tile := { t with valid := false, rows := [], poison := 0 }

/-- The format in which a tile holds elements: LF48 stands widened (R153). -/
def Fmt.held (f : Fmt) : Fmt := if f = .lf48 then .f64 else f

/-- Bytes of a storage unit in a tile (R153). -/
def Fmt.unit (f : Fmt) : Nat := if f.held.width = 6 then 12 else max 1 (f.held.width / 8)

/-- Elements in a row of some bytes, none where it is no whole number of storage units (R153). -/
def perRow (f : Fmt) (rowb : Nat) : Option Nat :=
  if rowb = 0 ∨ rowb % f.unit ≠ 0 then none else some (8 * rowb / f.held.width)

/-- Element `i` of a row. -/
def rowEl (v : TRow) (w i : Nat) : Nat := elemAt v w i

/-- A row with element `i` replaced. -/
def putRowEl (v : TRow) (w i x : Nat) : TRow :=
  (v &&& ~~~(BitVec.ofNat 2048 ((2 ^ w - 1) <<< (w * i)))) ||| BitVec.ofNat 2048 ((x % 2 ^ w) <<< (w * i))

/-! ### Order with unsettled tile operations (R110, R166, R178) -/

/-- FP64 and LF48 accumulators stand in a pair (R181). -/
def MmaArgs.pairAcc (m : MmaArgs) : Bool := m.acc == 1 || m.acc == 3

/-- Tiles that a tmma writes. -/
def MmaArgs.writes (m : MmaArgs) : List Nat := if m.pairAcc then [m.c, m.c + 1] else [m.c]

/-- Tiles that a tmma reads (R183). -/
def MmaArgs.reads (m : MmaArgs) : List Nat :=
  [m.a, m.b] ++ (if m.z then [] else m.writes) ++ (if m.sam = 1 then [m.sav] else []) ++ (if m.sbm = 1 then [m.sbv] else [])

/-- An unsettled operation of the core writes one of some tiles. -/
def Core.tilesWritten (c : Core) (ts : List Nat) : Bool := c.tops.any fun o => o.args.writes.any fun t => ts.contains t

/-- An unsettled operation of the core reads or writes one of some tiles. -/
def Core.tilesUsed (c : Core) (ts : List Nat) : Bool :=
  c.tilesWritten ts || c.tops.any fun o => o.args.reads.any fun t => ts.contains t

/-- The staging buffers with some tiles bound for a write now; none where the write must wait (R166). -/
def Core.stageFor (c : Core) (ts : List Nat) : Option (List (Nat × Nat)) :=
  match c.tops.getLast? with
  | none => some c.staged
  | some o =>
    let rest := c.staged.filter fun p => !ts.contains p.1
    if rest.length + ts.length ≤ 2 then some (rest ++ ts.map fun t => (t, o.seq)) else none

/-- A write of some tiles: it waits for older work and for a staging buffer, then goes on (R166, R168). -/
def stageTiles (s : State) (n : Nat) (ts : List Nat) (k : State → Res) : Res :=
  let c := s.core n
  if c.tilesUsed ts then .wait s .tiles
  else match c.stageFor ts with
    | none => .wait s .tiles
    | some st => k ((s.updCore n fun c => { c with staged := st }).dropB n fun t => ts.contains t)

def State.updTile (s : State) (n t : Nat) (f : Tile → Tile) : State :=
  s.updCore n fun c => { c with arch := c.arch.setTile t (f (c.arch.tile t)) }

/-! ### Release (R158) -/

def emptyTiles (s : State) (n : Nat) (ts : List Nat) : State := ts.foldl (fun s t => s.updTile n t Tile.emptied) s

def execTrel (x : Ctx) (f : RF) (s : State) : Out :=
  let F := formRS 0x30 f
  .next (runForm x F [] [] s fun s =>
    if F.d ≥ 16 ∨ F.a ≠ 0 ∨ F.b ≠ 0 then illegal F s
    else stageTiles s x.core [F.d] fun s => .ok (emptyTiles s x.core [F.d]))

def execTrelM (x : Ctx) (f : RF) (s : State) : Out :=
  let F := formRS 0x30 f
  .next (runForm x F (codeG F.a) [] s fun s =>
    if F.d ≠ 0 ∨ F.b ≠ 0 then illegal F s
    else
      let m := ((s.core x.core).arch.rg F.a).toNat
      let ts := (List.range 16).filter fun t => m.testBit t
      stageTiles s x.core ts fun s => .ok (emptyTiles s x.core ts))

/-! ### tcfg (R151, R152, R155) -/

/-- Whether the nibble of tile `i` breaks a rule of R152. -/
def badNibble (map : W64) (shape : Nat → W64) (i : Nat) : Bool :=
  let nib := fun k => W64.fld map (4 * k + 3) (4 * k)
  let x := nib i
  if x < 8 then x != 0
  else
    let v := shape (x % 4)
    let rows := W64.fld v 23 16
    let rowb := W64.fld v 8 0
    !(decide (1 ≤ rows ∧ rows ≤ 64 ∧ 4 ≤ rowb ∧ rowb ≤ 256) && rowb % 4 == 0) ||
      (x.testBit 2 && (i % 2 == 1 || rowb % 8 != 0 || nib (i + 1) != 8 + x % 4))

/-- The tiles after a good tcfg. -/
def Arch.configure (a : Arch) (map : W64) : Arch :=
  let sh := fun k => a.cr (0x204 + k)
  let a := { a with tiles := (List.range 16).foldl (fun (m : Tab Tile) i =>
    let x := W64.fld map (4 * i + 3) (4 * i)
    let cfg : W64 := if x < 8 then 0
      else BitVec.ofNat 64 (b1 (x.testBit 2) * 2 ^ 24) ||| (sh (x % 4) &&& 0xFF01FF)
    Tab.set Tile.reset m i { Tile.reset with cfg := cfg }) [] }
  let a := a.setCr 0x201 map
  if W64.fld (a.cr nPROGRESS) 62 60 = 1 then a.setCr nPROGRESS (W64.setFld (a.cr nPROGRESS) 63 63 0) else a

def execTcfg (x : Ctx) (f : RF) (s : State) : Out :=
  let F := formRS 0x30 f
  .next (runForm x F (codeG F.a) [] s fun s =>
    let c := s.core x.core
    if F.d ≠ 0 ∨ F.b ≠ 0 then illegal F s
    else if !c.tops.isEmpty then .wait s .tiles
    else
      let map := c.arch.rg F.a
      match (List.range 16).find? fun i => badNibble map (fun k => c.arch.cr (0x204 + k)) i with
      | some i => .trap s 0x31 (BitVec.ofNat 64 i)
      | none =>
        .ok ((s.dropB x.core fun _ => true).updCore x.core fun c => { c with arch := c.arch.configure map }))

/-! ### Loads and stores (R159 to R163) -/

/-- Fields of a tile memory instruction: tile, base and stride in either form; long ops 0xC0 to 0xC3 (R174, R175). -/
def formTile : RL → Form
  | .short f => formRS 0x30 f
  | .long op f => { formL op.toNat f with bad := f.k != 0 || f.md != 0 }

/-- The address of row `r`. -/
def rowAddr (r : Arch) (F : Form) (imm : W64) (i : Nat) : Nat :=
  (r.rg F.a + imm + BitVec.ofNat 64 i * r.rg F.b).toNat

/-- The immediate of a long form; 0 in the short one. -/
def tileImm : RL → W64
  | .short _ => 0
  | .long _ f => f.imm.signExtend 64

/-- A row as LF48 rows widen it (R161). -/
def widenRow (rowb : Nat) (bs : List Byte) : TRow :=
  BitVec.ofNat 2048 (packElems 64 ((List.range (rowb / 8)).map fun i => widenLf48 (ofBytes ((bs.drop (6 * i)).take 6))))

/-- The first `rowb` bytes of a row replaced. -/
def Tile.fill (t : Tile) (r rowb : Nat) (v : TRow) (bad : Bool) : Tile :=
  let m : TRow := BitVec.ofNat 2048 (2 ^ (8 * rowb) - 1)
  { (t.setRow r ((t.row r &&& ~~~m) ||| (v &&& m))).setPoison r bad with valid := true }

/-- Load rows from `i` on; `k` rows are left. -/
def loadRows (n : Nat) (up : List Upset) (t rowb : Nat) (lf : Bool) (addr : Nat → Nat) : Nat → Nat → State → Res
  | 0, _, s => .ok (s.updCore n Core.clearProgress)
  | k + 1, i, s =>
    match s.load n (s.core n).pl up ⟨true, true, true⟩ (addr i) (if lf then 6 * rowb / 8 else rowb) with
    | (.ok s bs, bad) =>
      let v := if lf then widenRow rowb bs else BitVec.ofNat 2048 (ofBytes bs)
      loadRows n [] t rowb lf addr k (i + 1) (s.updTile n t fun x => x.fill i rowb v (bad.any fun b => b))
    | (.trap s c v, _) => .trap (s.updCore n fun c => c.setProgress 1 i) c v
    | (.wait s w, _) => .wait (s.updCore n fun c => c.setProgress 1 i) w

/-- The row a tile memory instruction continues from (R117, R162). -/
def Core.startRow (c : Core) : Nat := (c.resumeAt 1).getD 0

/-- tload and tload.lf48. -/
def runTload (x : Ctx) (f : RL) (lf : Bool) (s : State) : State :=
  let F := formTile f
  let n := x.core
  runForm x F (codeG F.a ++ codeG F.b) [] s fun s =>
    if F.d ≥ 16 then illegal F s
    else
      let t := (s.core n).arch.tile F.d
      if !t.configured ∨ (lf ∧ t.rowB % 8 ≠ 0) then .trap s 0x07 (BitVec.ofNat 64 F.d)
      else stageTiles s n [F.d] fun s =>
        let c := s.core n
        let i := c.startRow
        loadRows n x.up F.d t.rowB lf (rowAddr c.arch F (tileImm f)) (t.nRows - i) i s

def execTload (x : Ctx) (f : RL) (s : State) : Out := .next (runTload x f false s)

def execTloadLf48 (x : Ctx) (f : RL) (s : State) : Out := .next (runTload x f true s)

/-- The bytes of a row as tstore.lf48 narrows them, with the flags (R161, R43). -/
def narrowRow (rowb : Nat) (v : TRow) : List Byte × Flags :=
  (List.range (rowb / 8)).foldl (fun (r : List Byte × Flags) i =>
    let x := narrowLf48 (rowEl v 64 i)
    (r.1 ++ bytesOf 6 x.1, r.2 ||| x.2)) ([], 0)

/-- Whether every part of a span lies where poison can be held (R163). -/
def State.holdsPoison (s : State) (n va len : Nat) : Bool :=
  (s.span n .store (s.core n).pl va len).2.1.all fun p => match p.place with
    | .mem _ => true
    | .win _ => false
    | .sram _ => false
    | .away _ => false
    | .refused _ => false

/-- One row of a store: its bytes, or the cause it meets (R107, R163, R56). -/
def State.storeRow (s : State) (n : Nat) (t : Tile) (tn i va : Nat) (lf : Bool) : St :=
  let bad := t.poisoned i
  let r : List Byte × Flags := if lf then narrowRow t.rowB (t.row i) else (bytesOf t.rowB (t.row i).toNat, 0)
  match firstCause (s.span n .store (s.core n).pl va r.1.length).2.2 with
  | some c => .trap s c.1 c.2
  | none =>
    if bad && (lf || !s.holdsPoison n va r.1.length) then .trap s 0x09 (BitVec.ofNat 64 tn)
    else if r.2 &&& (s.core n).traps ≠ 0 then .trap (s.raiseFlags n r.2) 0x06 (r.2.setWidth 64)
    else match s.store n va r.1 { StHow.plain with poison := fun _ => bad } true with
      | .ok s => .ok (s.raiseFlags n r.2)
      | x => x

/-- Store rows from `i` on, ascending (R160). -/
def storeRows (n tn : Nat) (t : Tile) (lf : Bool) (addr : Nat → Nat) : Nat → Nat → State → Res
  | 0, _, s => .ok (s.updCore n Core.clearProgress)
  | k + 1, i, s =>
    match s.storeRow n t tn i (addr i) lf with
    | .ok s => storeRows n tn t lf addr k (i + 1) s
    | .trap s c v => .trap (s.updCore n fun c => c.setProgress 1 i) c v
    | .wait s w => .wait (s.updCore n fun c => c.setProgress 1 i) w

/-- tstore and tstore.lf48 (R167). -/
def runTstore (x : Ctx) (f : RL) (lf : Bool) (s : State) : State :=
  let F := formTile f
  let n := x.core
  runForm x F (codeG F.a ++ codeG F.b) [] s fun s =>
    let c := s.core n
    if F.d ≥ 16 then illegal F s
    else if !c.tops.isEmpty then .wait s .tiles
    else
      let t := c.arch.tile F.d
      if !t.configured ∨ (lf ∧ t.rowB % 8 ≠ 0) then .trap s 0x07 (BitVec.ofNat 64 F.d)
      else
        let i := c.startRow
        storeRows n F.d t lf (rowAddr c.arch F (tileImm f)) (t.nRows - i) i s

def execTstore (x : Ctx) (f : RL) (s : State) : Out := .next (runTstore x f false s)

def execTstoreLf48 (x : Ctx) (f : RL) (s : State) : Out := .next (runTstore x f true s)

/-! ### Moves through the vector unit (R137, R154, R163) -/

/-- How an instruction sees a tile in a format: rows, elements of a row, and whether as a pair; none where it
may not (R153, R154). -/
def Arch.tileView (a : Arch) (t : Nat) (f : Fmt) : Option (Nat × Nat × Bool) :=
  let x := a.tile t
  if !x.configured then none
  else if f = .f64 ∧ t % 2 = 1 ∧ (a.tile (t - 1)).pair then none
  else if f = .f64 ∧ x.pair then some (x.nRows, 2 * (x.rowB / 8), true)
  else (perRow f x.rowB).map fun p => (x.nRows, p, false)

/-- Member and column of an element (R154). -/
def tileCol (t per : Nat) (pair : Bool) (c : Nat) : Nat × Nat :=
  if pair ∧ c ≥ per / 2 then (t + 1, c - per / 2) else (t, c)

/-- Element (r, c) of a tile or pair. -/
def Arch.tileEl (a : Arch) (t per : Nat) (pair : Bool) (w r c : Nat) : Nat :=
  let m := tileCol t per pair c
  rowEl ((a.tile m.1).row r) w m.2

/-- Element (r, c) of a tile or pair replaced. -/
def Arch.putTileEl (a : Arch) (t per : Nat) (pair : Bool) (w r c v : Nat) : Arch :=
  let m := tileCol t per pair c
  let x := a.tile m.1
  a.setTile m.1 (x.setRow r (putRowEl (x.row r) w m.2 v))

/-- The tiles that a view takes in. -/
def members (t : Nat) (pair : Bool) : List Nat := if pair then [t, t + 1] else [t]

/-- An access by vtget or vtput: its active positions lie in the tile, or 0x07. -/
def tileMove (n : Nat) (F : Form) (f : Fmt) (h : Shape) (s : State)
    (k : Nat → Bool → (Nat → Nat × Nat) → State → Res) : Res :=
  let c := s.core n
  if F.a ≥ 16 ∨ (vop h.g f.regW F.d f.regW).odd then illegal F s
  else match h.elems.getLast? with
    | none => .ok s
    | some top =>
      let row0 := (c.arch.rg F.b).toNat
      match c.arch.tileView F.a f with
      | none => .trap s 0x07 (BitVec.ofNat 64 F.a)
      | some (rows, per, pair) =>
        if row0 + top / per ≥ rows then .trap s 0x07 (BitVec.ofNat 64 F.a)
        else k per pair (fun i => (row0 + i / per, i % per)) s

/-- The formats of vtget and vtput (R146). -/
def moveFmt (F : Form) : Option Fmt := if F.func % 16 = 1 then none else fmtOf (F.func % 16)

def execVtget (x : Ctx) (f : RF) (s : State) : Out :=
  let F := formR 0x2E f
  let n := x.core
  .next (match moveFmt F with
    | none => runForm x F [] [] s fun s => illegal F s
    | some fm =>
      let w := fm.regW
      let h := (s.core n).shape w F.k
      let d := vop h.g w F.d w
      runForm x F (codeG F.b ++ codeK F.k) (d.whole h.n h.all) s fun s =>
        tileMove n F fm h s fun per pair pos s =>
          let c := s.core n
          if c.tilesWritten (members F.a pair) then .wait s .tiles
          else
            let bad := h.elems.filterMap fun i =>
              let m := (tileCol F.a per pair (pos i).2).1
              if (c.arch.tile m).poisoned (pos i).1 then some m else none
            match bad with
            | m :: t => .trap s 0x09 (BitVec.ofNat 64 (t.foldl min m))
            | [] =>
              .ok (s.updCore n fun c => { c with arch := c.arch.putEls d (h.elems.map fun i =>
                (i, c.arch.tileEl F.a per pair fm.width (pos i).1 (pos i).2)) }))

/-- Rows of a member of which a vtput writes every byte lose their poison (R163). -/
def clearedRows (per : Nat) (pair : Bool) (h : Shape) (pos : Nat → Nat × Nat) (t m : Nat) : List Nat :=
  let first := (h.elems.head?.map fun i => (pos i).1).getD 0
  let lastRow := (h.elems.getLast?.map fun i => (pos i).1).getD 0
  let base := (pos 0).1
  let cols := if pair then (if m = t then List.range (per / 2) else (List.range (per / 2)).map fun c => c + per / 2)
    else List.range per
  ((List.range (lastRow + 1 - first)).map fun k => first + k).filter fun r =>
    cols.all fun c => h.act ((r - base) * per + c)

def execVtput (x : Ctx) (f : RF) (s : State) : Out :=
  let F := formR 0x2E f
  let n := x.core
  .next (match moveFmt F with
    | none => runForm x F [] [] s fun s => illegal F s
    | some fm =>
      let w := fm.regW
      let h := (s.core n).shape w F.k
      let d := vop h.g w F.d w
      runForm x F (codeG F.b ++ codeK F.k ++ d.codes) [] s fun s =>
        tileMove n F fm h s fun per pair pos s =>
          stageTiles s n (members F.a pair) fun s =>
            let ms := members F.a pair
            .ok (s.updCore n fun c =>
              let a := h.elems.foldl (fun (a : Arch) i =>
                a.putTileEl F.a per pair fm.width (pos i).1 (pos i).2 (c.arch.el d i)) c.arch
              let a := ms.foldl (fun (a : Arch) m =>
                a.setTile m { (clearedRows per pair h pos F.a m).foldl (fun t r => t.setPoison r false) (a.tile m) with
                  valid := true }) a
              { c with arch := a }))

end Sys2Proof.Machine
end

