-- ==== Sys2Proof/Machine/Mma.lean ====
section
/-! DEFINITION. What a tmma computes: its operands (R178, R183 to R186), its shape (R181), poison (R182), its
result (R179, R180) and Yarrow's checks of a run (R204, R205). -/

namespace Sys2Proof.Machine

/-! ### Operands -/

/-- The accumulator under a code (R178). -/
def accOf : Nat → Acc
  | 0 => .f32
  | 1 => .f64
  | 2 => .i32
  | _ => .lf48

/-- The combinations of R178, by format codes and accumulator code. -/
def comboOk (fa fb acc : Nat) : Bool :=
  let both := fun (p : Nat → Bool) => p fa && p fb
  match acc with
  | 0 => both (fun c => decide (3 ≤ c ∧ c ≤ 9)) || both (fun c => c == 2)
  | 1 => both (fun c => c == 2) || both (fun c => c == 0 || c == 1)
  | 2 => both fun c => decide (0xC ≤ c ∧ c ≤ 0xE)
  | _ => both fun c => c == 1

/-- A scale mode with its field (R183, R186). -/
def scaleOk (mode v fmt : Nat) : Bool :=
  match mode with
  | 0 => v == 0
  | 1 => decide (v < 16) && decide (5 ≤ fmt ∧ fmt ≤ 9)
  | 2 => decide (5 ≤ fmt ∧ fmt ≤ 9)
  | _ => false

def MmaArgs.ok (m : MmaArgs) : Bool :=
  decide (m.a < 16 ∧ m.b < 16 ∧ m.c < 16) && decide (m.kb ≤ 16 ∨ m.kb = 63) && comboOk m.fa.toNat m.fb.toNat m.acc.toNat &&
    scaleOk m.sam.toNat m.sav m.fa.toNat && scaleOk m.sbm.toNat m.sbv m.fb.toNat

/-- The 32-bit form (R185). -/
def mmaShort (f : RF) : MmaArgs :=
  let fn := f.func.toNat
  { c := f.d.toNat, a := f.a.toNat, b := f.b.toNat, fa := BitVec.ofNat 4 (fn / 16), fb := BitVec.ofNat 4 (fn / 16),
    acc := BitVec.ofNat 2 (fn / 4), z := fn.testBit 1, kb := 0, sam := 0, sbm := 0, sav := 0, sbv := 0 }

/-- tmma.x (R186). -/
def mmaLong (f : LF) : MmaArgs :=
  let i := f.imm.toNat
  { c := f.d.toNat, a := f.a.toNat, b := f.b.toNat, fa := BitVec.ofNat 4 i, fb := BitVec.ofNat 4 (i / 16),
    acc := BitVec.ofNat 2 (fld i 29 28), z := i.testBit 30, kb := f.k.toNat * 8 + f.md.toNat,
    sam := BitVec.ofNat 2 (fld i 25 24), sbm := BitVec.ofNat 2 (fld i 27 26), sav := fld i 15 8, sbv := fld i 23 16 }

def MmaArgs.fmtA (m : MmaArgs) : Fmt := (fmtOf m.fa.toNat).getD .f64
def MmaArgs.fmtB (m : MmaArgs) : Fmt := (fmtOf m.fb.toNat).getD .f64
def MmaArgs.accum (m : MmaArgs) : Acc := accOf m.acc.toNat

/-- The wider input, which fixes the nodes (R68) and the depth (R177). -/
def MmaArgs.wide (m : MmaArgs) : Fmt := if m.fmtA.width ≥ m.fmtB.width then m.fmtA else m.fmtB

/-- Depth per lane (R177). -/
def Fmt.depth : Fmt → Nat
  | .e2m1 => 128 | .i4 => 128 | .e4m3 => 64 | .e5m2 => 64 | .i8 => 64 | .e3m2 => 64 | .e2m3 => 64
  | .f16 => 32 | .bf16 => 32 | .i16 => 32 | .f32 => 8 | .lf48 => 4 | .f64 => 2 | .e8m0 => 0 | .i32 => 0

/-- Depth of an operation: that of the wider input. -/
def MmaArgs.depth (m : MmaArgs) : Nat := min m.fmtA.depth m.fmtB.depth

/-! ### Shape (R181, R183, R184) -/

structure MmaShape where
  m : Nat
  n : Nat
  /-- Elements of a row, and the reduction length used. -/
  k : Nat
  len : Nat
deriving DecidableEq, Repr

/-- Reduction length under KB. -/
def lenOf (kb k : Nat) : Nat := if kb = 0 then k else if kb = 63 then 0 else min (32 * kb) k

/-- The shape, or the first tile that fails. -/
def Arch.mmaShape (r : Arch) (x : MmaArgs) : Nat ⊕ MmaShape :=
  let ta := r.tile x.a
  let tb := r.tile x.b
  let tc := r.tile x.c
  match (if ta.configured then perRow x.fmtA ta.rowB else none) with
  | none => .inl x.a
  | some k =>
    let m := ta.nRows
    let n := tb.nRows
    let srcs := [x.a, x.b] ++ (if x.sam = 1 then [x.sav] else []) ++ (if x.sbm = 1 then [x.sbv] else [])
    let scaleBad := fun (t rows : Nat) =>
      let s := r.tile t
      !s.configured || decide (s.nRows < rows) || decide (s.rowB < (k + 31) / 32)
    if !tb.configured ∨ perRow x.fmtB tb.rowB ≠ some k then .inl x.b
    else if !tc.configured ∨ tc.nRows ≠ m ∨ srcs.any (fun t => x.writes.contains t) then .inl x.c
    else if (if x.pairAcc then x.c % 2 ≠ 0 ∨ !tc.pair ∨ 2 * (tc.rowB / 8) ≠ n else tc.rowB ≠ 4 * n) then .inl x.c
    else if x.sam = 1 ∧ scaleBad x.sav m then .inl x.sav
    else if x.sbm = 1 ∧ scaleBad x.sbv n then .inl x.sbv
    else .inr ⟨m, n, k, lenOf x.kb k⟩

/-- A tile holds a poisoned row among its first `n`. -/
def Tile.badRows (t : Tile) (n : Nat) : Bool := t.poison.toNat % 2 ^ n != 0

/-- The tile that 0x09 names (R182, R184). -/
def Arch.mmaPoison (r : Arch) (x : MmaArgs) (sh : MmaShape) : Option Nat :=
  if sh.len = 0 then none
  else
    let l := [(x.a, sh.m), (x.b, sh.n)] ++ (if x.z then [] else x.writes.map fun t => (t, sh.m)) ++
      (if x.sam = 1 then [(x.sav, sh.m)] else []) ++ (if x.sbm = 1 then [(x.sbv, sh.n)] else [])
    (l.find? fun p => (r.tile p.1).badRows p.2).map fun p => p.1

/-! ### The result (R179) -/

/-- An FP64 encoding that stands for an LF48 value, rounded where its low bits are not zero (R180). -/
def asLf48 (w : Nat) : Nat × Flags :=
  if w % 2 ^ 16 = 0 then (w, 0)
  else
    let r := narrowLf48 w
    (widenLf48 r.1, r.2)

/-- Row `r` of an operand: `len` values, with the flags of R180. -/
def Arch.opRow (a : Arch) (t : Nat) (f : Fmt) (len r : Nat) : List XVal × Flags :=
  let row := (a.tile t).row r
  (List.range len).foldr (fun i (acc : List XVal × Flags) =>
    let w := rowEl row f.held.width i
    let v := if f = .lf48 then asLf48 w else (w, 0)
    (f.held.value v.1 :: acc.1, acc.2 ||| v.2)) ([], 0)

/-- The scale exponent of block `j` of row `r` (R45, R183). -/
def Arch.scaleOf (a : Arch) (mode v r j : Nat) : Option Int :=
  match mode with
  | 1 => scaleExp (rowEl ((a.tile v).row r) 8 j)
  | 2 => scaleExp v
  | _ => some 0

/-- The sum of two scale exponents. -/
def bothScales : Option Int → Option Int → Option Int
  | some x, some y => some (x + y)
  | _, _ => none

/-- Element (r, c) of the accumulator as the tile holds it. -/
def Arch.accEl (a : Arch) (x : MmaArgs) (r c : Nat) : Nat × Flags :=
  if x.pairAcc then
    let h := (a.tile x.c).rowB / 8
    let w := rowEl ((a.tile (if c < h then x.c else x.c + 1)).row r) 64 (if c < h then c else c - h)
    if x.accum = .lf48 then asLf48 w else (w, 0)
  else (rowEl ((a.tile x.c).row r) 32 c, 0)

/-- What an error makes of the block sums of one output: the value added to block `j`. -/
abbrev SumErr := Nat → Nat → Nat → Option XVal

/-- The blocks of output (r, c), under errors. -/
def Arch.mmaBlocks (a : Arch) (x : MmaArgs) (err : SumErr) (ra rb : List XVal) (r c : Nat) : List (XVal × Flags) :=
  let ps := products ra rb
  let bs := blockValues (nodeBits x.wide x.accum)
    (fun j => bothScales (a.scaleOf x.sam.toNat x.sav r j) (a.scaleOf x.sbm.toNat x.sbv c j)) ((ps.length + 31) / 32) 0 ps
  (bs.zip (List.range bs.length)).map fun p =>
    match err r c p.2, p.1.1 with
    | some e, .fin n m q => (((XVal.fin n m q).add false e).1, p.1.2)
    | _, _ => p.1

/-- Output (r, c). -/
def Arch.mmaOut (a : Arch) (x : MmaArgs) (err : SumErr) (ra rb : List XVal) (r c : Nat) : Nat × Flags :=
  let c0 := if x.z then (0, 0) else a.accEl x r c
  let v := addBlocks x.accum c0.1 (a.mmaBlocks x err ra rb r c)
  (v.1, v.2 ||| (if ra.isEmpty then 0 else c0.2))

/-- All outputs row by row, and every flag. -/
def Arch.mmaAll (a : Arch) (x : MmaArgs) (sh : MmaShape) (err : SumErr) : List (List Nat) × Flags :=
  let rows := (List.range sh.m).map fun r => a.opRow x.a x.fmtA sh.len r
  let cols := (List.range sh.n).map fun c => a.opRow x.b x.fmtB sh.len c
  let fl := (rows ++ cols).foldl (fun (f : Flags) p => f ||| p.2) 0
  let outs := (rows.zip (List.range sh.m)).map fun p =>
    (cols.zip (List.range sh.n)).map fun q => a.mmaOut x err p.1.1 q.1.1 p.2 q.2
  (outs.map fun row => row.map fun o => o.1,
    outs.foldl (fun (f : Flags) row => row.foldl (fun (f : Flags) o => f ||| o.2) f) fl)

/-- The rows of the accumulator tiles that outputs make. -/
def packOut (x : MmaArgs) (rowb : Nat) (outs : List (List Nat)) : List TRow × List TRow :=
  if x.pairAcc then
    (outs.map fun r => BitVec.ofNat 2048 (packElems 64 (r.take (rowb / 8))),
     outs.map fun r => BitVec.ofNat 2048 (packElems 64 (r.drop (rowb / 8))))
  else (outs.map fun r => BitVec.ofNat 2048 (packElems 32 r), [])

/-! ### Checks of a run (R204, R205) -/

/-- A value rounded upwards to `p` significant bits. -/
def roundUpSig (p : Nat) (x : XVal) : XVal :=
  match x with
  | .fin neg num exp =>
    if Nat.log2 num + 1 ≤ p then x
    else
      let q := exp + (Nat.log2 num + 1 - p : Nat)
      .fin neg (roundAt false num exp q .up).1 q
  | x => x

/-- Exact sum of values. -/
def sumX (l : List XVal) : XVal := l.foldl (fun s v => (s.add false v).1) posZero

/-- Whether the two sides of a comparison agree within the bound of R205. -/
def withinBound (p : Nat) (one two mag : XVal) : Bool :=
  match (one.add false two.neg).1, (roundUpSig p mag).scale (2 - (p : Int)) with
  | .fin _ m q, .fin _ m' q' => !((XVal.fin false m' q').lt (.fin false m q))
  | _, _ => true

/-- One comparison: the block sum of `one` against the exact sum of `many`, and the block sums of the lanes with
their error. -/
def compareSums (x : MmaArgs) (one : List XVal) (many : List (List XVal)) (err : XVal) : Bool :=
  let nb := nodeBits x.wide x.accum
  let colSum := (List.range one.length).map fun i => sumX (many.map fun r => r.getD i posZero)
  let s1 := (blockTree nb (products one colSum)).1
  let s2 := sumX (err :: many.map fun r => (blockTree nb (products one r)).1)
  let mag := sumX ((many.map fun r => (products one r).map XVal.abs).flatten)
  withinBound x.accum.prec s1 s2 mag

/-- The lane check of the row and the row check of the lane, at a block whose sum of output (row, lane) is
wrong by `err`. -/
def Arch.sumChecks (a : Arch) (x : MmaArgs) (sh : MmaShape) (row lane block : Nat) (err : XVal) : Bool × Bool :=
  if nodeBits x.wide x.accum = none then (err.isZero, err.isZero)
  else
    let cut := fun (l : List XVal) => (l.drop (32 * block)).take 32
    let rows := (List.range sh.m).map fun r => cut (a.opRow x.a x.fmtA sh.len r).1
    let cols := (List.range sh.n).map fun c => cut (a.opRow x.b x.fmtB sh.len c).1
    (compareSums x (rows.getD row []) cols err, compareSums x (cols.getD lane []) rows err)

/-- A run of a tile operation on an engine: its result, flags and checks under an error (R204, R205, R407). -/
def Arch.mmaRun (a : Arch) (x : MmaArgs) (sh : MmaShape) (checked : Bool) (up : RunUpset) : RunResult :=
  let none' : SumErr := fun _ _ _ => none
  let rowb := (a.tile x.c).rowB
  let mk := fun (outs : List (List Nat)) (fl : Flags) (pass : Bool) (lane : Option Nat) (parity : Bool) =>
    let p := packOut x rowb outs
    (⟨p.1, p.2, fl, pass, lane, parity⟩ : RunResult)
  match up with
  | .none =>
    let r := a.mmaAll x sh none'
    mk r.1 r.2 true none false
  | .parity =>
    let r := a.mmaAll x sh none'
    mk r.1 r.2 false none true
  | .checker lane =>
    let r := a.mmaAll x sh none'
    mk r.1 r.2 (!checked) (if checked then lane.filter fun l => decide (l < sh.n) else none) false
  | .bit row lane bit =>
    let r := a.mmaAll x sh none'
    let w := if x.pairAcc then 64 else 32
    if row < sh.m ∧ lane < sh.n ∧ bit < w then
      mk ((r.1.zip (List.range sh.m)).map fun p => if p.2 = row then
        (p.1.zip (List.range sh.n)).map fun q => if q.2 = lane then q.1 ^^^ 2 ^ bit else q.1 else p.1) r.2 true none false
    else mk r.1 r.2 true none false
  | .sum row lane block num exp =>
    let e : XVal := .fin (decide (num < 0)) num.natAbs exp
    if row < sh.m ∧ lane < sh.n ∧ block < (sh.len + 31) / 32 then
      let r := a.mmaAll x sh fun i j k => if i = row ∧ j = lane ∧ k = block then some e else none
      let c := if checked then a.sumChecks x sh row lane block e else (true, true)
      mk r.1 r.2 (c.1 && c.2) (if c.2 then none else some lane) false
    else
      let r := a.mmaAll x sh none'
      mk r.1 r.2 true none false

/-- Rows put into a tile as an accumulator (R157, R182). -/
def Tile.putAcc (t : Tile) (m rowb : Nat) (rows : List TRow) : Tile :=
  (rows.zip (List.range m)).foldl (fun t p => t.fill p.2 rowb p.1 false) t

/-- The result of an operation enters its accumulator; with a reduction of length 0 the accumulating form writes
nothing (R184). -/
def Arch.putResult (a : Arch) (x : MmaArgs) (sh : MmaShape) (r : RunResult) : Arch :=
  if sh.len = 0 ∧ !x.z then a
  else
    let rowb := (a.tile x.c).rowB
    let a := a.setTile x.c ((a.tile x.c).putAcc sh.m rowb r.lo)
    if x.pairAcc then a.setTile (x.c + 1) ((a.tile (x.c + 1)).putAcc sh.m rowb r.hi) else a

end Sys2Proof.Machine
end

