-- ==== Sys2Proof/Machine/Pool.lean ====
section
/-! DEFINITION. The engine pool of a cluster (R190 to R197), runs and checks (R202 to R209, R407), the standing of
the engines (R210 to R214, R416 to R419), and the settling of tile operations (R110, R111). -/

namespace Sys2Proof.Machine

/-! ### Operations and engines -/

def Engine.idle (e : Engine) : Bool := e.run0.isNone && e.run1.isNone

def Engine.run (e : Engine) (half : Nat) : Option EngRun := if half = 1 then e.run1 else e.run0

def Engine.setRun (e : Engine) (half : Nat) (r : Option EngRun) : Engine :=
  if half = 1 then { e with run1 := r } else { e with run0 := r }

/-- An engine with a half retired takes only operations with N of at most 32 (R419). -/
def Engine.fits (e : Engine) (n : Nat) : Bool := !(e.lower || e.upper) || decide (n ≤ 32)

/-- The half in which an idle engine runs an operation: the good one (R419). -/
def Engine.half (e : Engine) : Nat := if e.lower then 1 else 0

def Core.top (c : Core) (seq : Nat) : Option TileOp := c.tops.find? fun o => o.seq == seq

def State.updTop (s : State) (n seq : Nat) (f : TileOp → TileOp) : State :=
  s.updCore n fun c => { c with tops := c.tops.map fun o => if o.seq = seq then f o else o }

/-- The shape of an operation: its checks passed at issue. -/
def TileOp.shape (o : TileOp) : MmaShape :=
  match o.snap.mmaShape o.args with
  | .inr sh => sh
  | .inl _ => ⟨0, 0, 0, 0⟩

/-- Whether an operation is checked on an engine with this count of operations (R202, R203). -/
def TileOp.checkedAt (o : TileOp) (ops : Nat) : Bool := o.level == 2 || (o.level == 1 && ops % 16 == 0)

/-- The oldest operation of a core that waits to start, where every older one that writes a tile it reads or
writes has settled (R190). -/
def Core.nextOp (c : Core) : Option TileOp :=
  match c.tops.find? fun o => o.stat == .waiting with
  | none => none
  | some o =>
    let older := c.tops.filter fun p => decide (p.seq < o.seq)
    let uses := o.args.reads ++ o.args.writes
    if older.any fun p => p.args.writes.any fun t => uses.contains t then none else some o

/-- MX_CTRL bits: LEND 8, BORROW 9, PACK 10 (R215). -/
def Core.mxBit (c : Core) (i : Nat) : Bool := (c.cr nMXCTRL).toNat.testBit i

/-- BORROW and PACK of the issuing core as they stood at issue (R215). -/
def TileOp.borrows (o : TileOp) : Bool := (o.snap.cr nMXCTRL).toNat.testBit 9

def TileOp.packable (o : TileOp) : Bool := (o.snap.cr nMXCTRL).toNat.testBit 10

/-- Whether an operation of core `n` may use an engine: one of its own core, or one lent and borrowed (R192, R215). -/
def TileOp.mayUse (o : TileOp) (n e : Nat) : Bool :=
  e / 8 == n || (o.borrows && o.lends.toNat.testBit (coreCic (e / 8)))

/-- LEND of each core of a core's cluster, for an operation that issues (R215). -/
def State.lends (s : State) (n : Nat) : BitVec 4 :=
  BitVec.ofNat 4 (((List.range 4).map fun i => 2 ^ i * b1 ((s.core (4 * coreCluster n + i)).mxBit 8)).foldl (· + ·) 0)

/-! ### Replays (R206, R208) -/

/-- Engines among which a replay is placed. -/
def State.replayCands (s : State) (cl : Nat) (r : Replay) : List Nat :=
  let n := match (s.core r.core).top r.seq with
    | some o => o.shape.n
    | none => 0
  let es := (clusterEngines (32 * cl)).filter fun e =>
    (s.eng e).inService && !(s.eng e).chkredir && !r.not.contains e && (s.eng e).fits n
  -- With no other, an engine of the earlier runs, in service where one is.
  let own := (clusterEngines (32 * cl)).filter fun e => r.not.contains e
  if !es.isEmpty then es
  else if own.any fun e => (s.eng e).inService then own.filter fun e => (s.eng e).inService
  else own

/-- The replays of a cluster that can start, each with its engine: in the order of their checks, lowest engine first. -/
def State.replayPicks (s : State) (cl : Nat) : List (Replay × Nat) :=
  (s.pool cl).replays.foldl (fun (acc : List (Replay × Nat)) r =>
    match (s.replayCands cl r).find? fun e => (s.eng e).idle && !(acc.any fun p => p.2 == e) with
    | some e => acc ++ [(r, e)]
    | none => acc) []

/-! ### Placement (R192, R196, R206, R211) -/

/-- An engine that may take an operation: idle, in service, not kept for a replay. -/
def State.engFree (s : State) (n e : Nat) : Bool :=
  (s.eng e).inService && (s.eng e).idle && (s.eng e).fits n && !((s.replayPicks (e / 32)).any fun p => p.2 == e)

/-- Whether an operation of a core could start on an engine now: beside it a second free one at level 3 (R206), the
engine that repeats it where checking is redirected (R211). -/
def State.canStart (s : State) (n : Nat) (o : TileOp) (e : Nat) : Bool :=
  let x := s.eng e
  o.mayUse n e && s.engFree o.shape.n e &&
    (if o.level = 3 then
      ((clusterEngines e).any fun f => f != e && o.mayUse n f && s.engFree o.shape.n f) ||
        ((clusterEngines e).filter fun f => (s.eng f).inService).length == 1
    else !x.chkredir || !o.checkedAt x.ops || x.redir == e || s.engFree o.shape.n x.redir)

/-- Whether it is core `n`'s turn on another core's engine, among the cores whose waiting operation can use it: first
its owner's, then in turn after the core it served last (R192). -/
def State.turn (s : State) (can : Nat → TileOp → Nat → Bool) (n e : Nat) : Bool :=
  let waits := fun (k : Nat) => (s.core k).nextOp.any fun o => can k o e
  let owner := e / 8
  if waits owner then false
  else
    let order := (List.range 4).map fun i => 4 * coreCluster n + ((s.eng e).last + i + 1) % 4
    (order.find? fun k => k != owner && waits k) == some n

/-- Engines of other cores that an operation of core `n` may take. -/
def State.others (s : State) (can : Nat → TileOp → Nat → Bool) (n : Nat) (o : TileOp) : List Nat :=
  (clusterEngines (8 * n)).filter fun e => e / 8 != n && o.mayUse n e && s.turn can n e

/-- Engines for an operation in the order of the rules of R192. -/
def State.placeOrder (s : State) (n : Nat) (o : TileOp) : List Nat :=
  let free := fun e => s.engFree o.shape.n e
  let holds := fun (e : Nat) => (s.eng e).bheld == some (n, o.args.b)
  let own := ((List.range 8).map fun i => 8 * n + i).filter free
  let other := (s.others s.canStart n o).filter free
  own.filter holds ++ (own.filter fun e => !holds e) ++ other.filter holds ++ other.filter fun e => !holds e

/-- The engines an operation starts on: one, two for a pair, the same one twice for two runs one after the
other; none where it waits. -/
def State.placeMma (s : State) (n : Nat) (o : TileOp) : List Nat :=
  let order := s.placeOrder n o
  if o.level = 3 then
    match order with
    | [] => []
    | e :: [] =>
      if ((clusterEngines e).filter fun f => (s.eng f).inService).length = 1 then [e, e] else []
    | e :: f :: _ => [e, f]
  else
    (order.findSome? fun e =>
      let x := s.eng e
      if !x.chkredir || !o.checkedAt x.ops then some [e]
      else if x.redir = e then some [e, e]
      else if s.engFree o.shape.n x.redir then some [e, x.redir]
      else none).getD []

/-- A replay that finds no idle engine waits for the first of its candidates to be free, ahead of every operation not
yet started (R208). -/
def State.replayAwaits (s : State) (e : Nat) : Bool :=
  let picks := s.replayPicks (e / 32)
  (s.pool (e / 32)).replays.any fun r => !(picks.any fun p => p.1 == r) && (s.replayCands (e / 32) r).contains e

/-- Whether an operation can share an engine with the one running there (R196); a waiting replay goes first (R208). -/
def State.packs (s : State) (n : Nat) (o : TileOp) (e : Nat) : Option Nat :=
  let x := s.eng e
  let r := match x.run0, x.run1 with
    | some r, none => some (r, 1)
    | none, some r => some (r, 0)
    | _, _ => none
  match r with
  | none => none
  | some (r, half) =>
    match (s.core r.core).top r.seq with
    | none => none
    | some q =>
      let redirected := x.chkredir && o.checkedAt x.ops
      if x.inService && !x.lower && !x.upper && !redirected && decide (o.shape.n ≤ 32) && decide (q.shape.n ≤ 32) &&
          o.args.acc == q.args.acc && o.args.depth == q.args.depth && o.level != 3 && q.level != 3 && !q.pair &&
          o.packable && q.packable && o.mayUse n e && !s.replayAwaits e
      then some half else none

/-- A half for an operation: the owner's engines first (R192, R196). -/
def State.placeHalf (s : State) (n : Nat) (o : TileOp) : Option (Nat × Nat) :=
  let can := fun (k : Nat) (o : TileOp) (e : Nat) => (s.packs k o e).isSome
  (((List.range 8).map fun i => 8 * n + i) ++ s.others can n o).findSome? fun e => (s.packs n o e).map fun h => (e, h)

/-! ### Runs -/

/-- A run starts on an engine, or in a half of a packed one (R168, R192, R217). -/
def State.beginRun (s : State) (e half : Nat) (packed : Bool) (b : Nat) (r : EngRun) : State :=
  let held := (s.eng e).bheld == some (r.core, b)
  let s := if held && !packed then s.countEng e 0x36 1 else s
  let s := if r.replay then s.countEng e 0x38 1 else s
  let s := if e / 8 ≠ r.core then
      let s := if r.replay then s else s.countCore r.core 0x41 1
      s.updEng e fun x => { x with last := coreCic r.core }
    else s
  s.updEng e fun x =>
    { x.setRun half (some r) with ops := x.ops + 1, bheld := if packed then none else some (r.core, b) }

/-- An operation has ended and waits to settle; its other runs leave their engines. -/
def State.endTop (s : State) (n seq : Nat) (e : TopEnd) (eng : Option Nat) (half : Nat) : State :=
  (s.stopRuns n fun q => q == seq).updTop n seq fun o => { o with stat := .ended e, engine := eng, half := half }

/-- Whether an operation on the dot units is recomputed: level 1 samples by the core's count of them (R207). -/
def Core.dotChecked (c : Core) (level : Nat) : Bool := decide (level ≥ 2) || (level == 1 && c.mvOps % 16 == 0)

/-- Run `k` of an operation on the dot units under its errors: outputs of width `w`, by their numbers. -/
def mvRun (up : List Upset) (k w : Nat) (outs : List Nat) : List Nat :=
  up.foldl (fun (outs : List Nat) u => match u with
    | .dot run out bit => if run = k ∧ bit < w then outs.set out (outs.getD out 0 ^^^ 2 ^ bit) else outs
    | _ => outs) outs

/-- The outcome of the runs of an operation on the dot units: none where no two of three agree (R207). -/
def mvOutcome (checked : Bool) (up : List Upset) (w : Nat) (outs : List Nat) : Option (List Nat) :=
  let a := mvRun up 0 w outs
  let b := mvRun up 1 w outs
  let c := mvRun up 2 w outs
  if !checked || a == b then some a else if c == a || c == b then some c else none

/-- Rows of outputs from their list. -/
def cutRows (n : Nat) : Nat → List Nat → List (List Nat)
  | 0, _ => []
  | k + 1, l => l.take n :: cutRows n k (l.drop n)

/-- The result of a tile operation on the dot units, none where its runs give no agreement (R195, R198, R207). -/
def Arch.dotMma (a : Arch) (m : MmaArgs) (sh : MmaShape) (checked : Bool) (up : List Upset) : Option RunResult :=
  let r := a.mmaAll m sh fun _ _ _ => none
  (mvOutcome checked up (if m.pairAcc then 64 else 32) r.1.flatten).map fun outs =>
    let p := packOut m (a.tile m.c).rowB (cutRows sh.n sh.m outs)
    ⟨p.1, p.2, r.2, true, none, false⟩

/-- The end of a tile operation on the dot units: 0x08 names its accumulator where the runs do not agree (R207). -/
def TileOp.dotEnd (o : TileOp) (c : Core) (up : List Upset) : TopEnd :=
  match o.snap.dotMma o.args o.shape (c.dotChecked o.level.toNat) up with
  | some r => .ok r
  | none => .fault 0x08 (BitVec.ofNat 64 o.args.c)

/-- The oldest waiting operation of a core is placed (R192, R195, R196). -/
def State.startMma (s : State) (n : Nat) (up : List Upset) : State :=
  match (s.core n).nextOp with
  | none => s
  | some o =>
    let run := fun (checked : Bool) => (⟨n, o.seq, false, checked⟩ : EngRun)
    if !((clusterEngines (8 * n)).any fun e => (s.eng e).ok) then
      -- R195: the dot units.
      match o.snap.mmaPoison o.args o.shape with
      | some t => s.endTop n o.seq (.fault 0x09 (BitVec.ofNat 64 t)) none 0
      | none =>
        ((s.endTop n o.seq (o.dotEnd (s.core n) up) none 0).countCore n 0x42 1).updCore n
          fun c => { c with mvOps := c.mvOps + 1 }
    else match s.placeMma n o with
      | [e] =>
        let c := o.checkedAt (s.eng e).ops
        (s.updTop n o.seq fun o => { o with stat := .running, due := 1 }).beginRun e (s.eng e).half false o.args.b (run c)
      | [e, f] =>
        let s := s.updTop n o.seq fun o => { o with stat := .running, due := 2, pair := true }
        let s := s.beginRun e (s.eng e).half false o.args.b (run false)
        if e = f then s else s.beginRun f (s.eng f).half false o.args.b (run false)
      | _ =>
        match s.placeHalf n o with
        | some (e, h) =>
          let c := o.checkedAt (s.eng e).ops
          (s.updTop n o.seq fun o => { o with stat := .running, due := 1 }).beginRun e h true o.args.b (run c)
        | none => s

/-- R192. -/
def execTmmaStart (x : Ctx) (s : State) : Out :=
  .next (if x.core < Config.cores then s.startMma x.core x.up else s)

/-- The first replay that can start takes its engine (R208). -/
def State.startReplay (s : State) (cl : Nat) : State :=
  match s.replayPicks cl with
  | [] => s
  | (r, e) :: _ =>
    let s := s.setPool cl { replays := (s.pool cl).replays.filter fun x => x != r }
    match (s.core r.core).top r.seq with
    | none => s
    | some o =>
      (s.updTop r.core r.seq fun o => { o with stat := .running, due := 1 }).beginRun e (s.eng e).half false o.args.b
        ⟨r.core, r.seq, true, true⟩

def execReplayStart (cluster : Nat) (s : State) : Out :=
  .next (if cluster < Config.clusters then s.startReplay cluster else s)

/-! ### Standing of the engines (R210 to R213, R416) -/

/-- An engine is retired by its transient errors (R212). -/
def State.retireTrans (s : State) (e : Nat) : State × List EngNote :=
  let x := s.eng e
  let lane := if x.laneHits.isEmpty then 0xFF else x.lane
  let s := s.setEng e { x with state := .retired, ok := false, chkredir := false, redir := 0 }
  let r := s.moveRedirs e
  (r.1, .retire e lane :: r.2.map fun m => .redirect m.1 m.2)

/-- A suspect event (R209, R211). -/
def State.noteSusp (s : State) (e : Nat) : State × List EngNote :=
  let s := (s.countEng e 0x39 1).updEng e fun x => { x with susp := inWindow x.ops x.susp ++ [x.ops] }
  let x := s.eng e
  if (inWindow x.ops x.susp).length ≥ 3 ∧ !x.chkredir ∧ x.state ≠ .retired then
    let r := s.nextService e
    (s.setEng e { x with chkredir := true, redir := r }, [.redirect e r])
  else (s, [])

/-- A transient error, with the lane of its verdict (R209, R212, R407, R416). -/
def State.noteTrans (s : State) (e : Nat) (lane : Option Nat) : State × List EngNote :=
  let s := (s.countEng e 0x3A 1).updEng e fun x =>
    let x : Engine := { x with trans := inWindow x.ops x.trans ++ [x.ops] }
    match lane with
    | some l => { x with lane := l, laneHits := x.laneHits ++ [(x.ops, l)] }
    | none => x
  let x := s.eng e
  if x.state = .retired then (s, [])
  else if (inWindow x.ops x.trans).length ≥ 8 then s.retireTrans e
  else match lane with
    | some l =>
      if x.hits l ≥ 3 ∧ x.state = .service ∧ x.why = .none then
        let s := s.setEng e { x with testDue := true, why := .automatic }
        (if (s.core (e / 8)).active then s else s.taskBoundary (e / 8), [])
      else (s, [])
    | none => (s, [])

/-- The mailbox of the SELFTEST that an engine's test is to answer. -/
def Engine.askedBy (e : Engine) : Option Nat :=
  match e.why with
  | .command mb => some mb
  | _ => e.asked

/-- An engine is quarantined (R209, R213). Its test answers a SELFTEST command that it was under too (R385). -/
def State.quarantine (s : State) (e other core : Nat) : State × List EngNote :=
  let x := s.eng e
  if x.why = .quarantine ∨ x.state = .retired then (s, [])
  else
    let s := s.setEng e
      { x with state := .quarantined, ok := false, why := .quarantine, testDue := false, asked := x.askedBy }
    let r := s.moveRedirs e
    (r.1, .quarantine e other core :: r.2.map fun m => .redirect m.1 m.2)

/-- A verdict record goes to the control die (R214). -/
def State.record (s : State) (e other core verdict : Nat) (lane : Option Nat) (notes : List EngNote) : State :=
  { s with ctl := { s.ctl with verdicts := s.ctl.verdicts ++ [⟨e, other, core, verdict, s.tb.epoch, lane, notes⟩] } }

/-! ### Verdicts (R206, R209, R407) -/

/-- Two results agree bit for bit. -/
def RunResult.same (a b : RunResult) : Bool := !a.parity && !b.parity && a.lo == b.lo && a.hi == b.hi

def State.suspect (s : State) (e other n : Nat) (lane : Option Nat) : State :=
  let r := s.noteSusp e
  r.1.record e other n 0 lane r.2

def State.transient (s : State) (e other n : Nat) (lane : Option Nat) (counted : Bool) : State :=
  let r := if counted then (s, []) else s.noteTrans e lane
  r.1.record e other n 1 lane r.2

/-- The result is withheld, and both engines are quarantined; `replay` is the engine of the run that matched neither. -/
def State.unresolved (s : State) (n : Nat) (o : TileOp) (a b : RunRec) (replay : Nat) : State :=
  let r := s.quarantine a.engine b.engine n
  let q := if b.engine = a.engine then (r.1, []) else r.1.quarantine b.engine a.engine n
  (q.1.record a.engine replay n 2 a.res.lane (r.2 ++ q.2)).endTop n o.seq
    (.fault 0x08 (BitVec.ofNat 64 o.args.c)) (some a.engine) a.half

/-- An operation waits for a replay or a third run. -/
def State.askReplay (s : State) (n : Nat) (o : TileOp) (not : List Nat) : State :=
  let cl := coreCluster n
  (s.updTop n o.seq fun o => { o with stat := .replaying }).setPool cl
    { replays := (s.pool cl).replays ++ [⟨n, o.seq, not⟩] }

/-- Parity errors count on their engines at once (R407). -/
def State.countParity (s : State) (n : Nat) (r : RunRec) : State :=
  if r.res.parity then
    let t := (s.countEng r.engine 0x3B 1).noteTrans r.engine none
    if t.2.isEmpty then t.1 else t.1.record r.engine r.engine n 1 none t.2
  else s

def State.accept (s : State) (n : Nat) (o : TileOp) (r : RunRec) : State :=
  s.endTop n o.seq (.ok r.res) (some r.engine) r.half

/-- The runs that an operation waited for have ended. -/
def State.judge (s : State) (n : Nat) (o : TileOp) : State :=
  match o.pair, o.runs with
  | false, [a] =>
    if a.res.pass then s.accept n o a else (s.countParity n a).askReplay n o [a.engine]
  | false, [a, b] =>
    if a.res.same b.res then (s.suspect a.engine b.engine n a.res.lane).accept n o a
    else if b.res.pass then (s.transient a.engine b.engine n a.res.lane a.res.parity).accept n o b
    else s.unresolved n o a b b.engine
  | true, [a, b] =>
    if a.res.same b.res then s.accept n o a
    else ((s.countParity n a).countParity n b).askReplay n o [a.engine, b.engine].eraseDups
  | true, [a, b, c] =>
    let ma := c.res.same a.res
    let mb := c.res.same b.res
    if ma || mb then
      let s := if ma then s else s.transient a.engine c.engine n a.res.lane a.res.parity
      let s := if mb then s else s.transient b.engine c.engine n b.res.lane b.res.parity
      (if c.res.pass then s else s.suspect c.engine (if ma then a.engine else b.engine) n c.res.lane).accept n o c
    else s.unresolved n o a b c.engine
  | _, _ => s

/-- Whether some engine of a cluster runs an operation. -/
def State.runsOn (s : State) (n seq : Nat) : Bool :=
  (clusterEngines (8 * n)).any fun e =>
    [(s.eng e).run0, (s.eng e).run1].any fun r => match r with
      | some r => r.core == n && r.seq == seq
      | none => false

/-- A run ends on an engine (R188, R182, R204). -/
def State.endRun (s : State) (e half : Nat) (up : RunUpset) : State :=
  match (s.eng e).run half with
  | none => s
  | some r =>
    let s := s.updEng e fun x => x.setRun half none
    match (s.core r.core).top r.seq with
    | none => s
    | some o =>
      match o.snap.mmaPoison o.args o.shape with
      | some t => s.endTop r.core o.seq (.fault 0x09 (BitVec.ofNat 64 t)) (some e) half
      | none =>
        let res := o.snap.mmaRun o.args o.shape r.checked up
        let res : RunResult := { res with lane := res.lane.map fun l => 32 * half + l }
        let o' : TileOp := { o with runs := o.runs ++ [⟨e, half, res⟩], due := o.due - 1 }
        let s := s.updTop r.core o.seq fun _ => o'
        if o'.due = 0 then s.judge r.core o'
        else if s.runsOn r.core o.seq then s
        else s.beginRun e half false o.args.b r

def execEngineRunEnd (engine half : Nat) (up : RunUpset) (s : State) : Out :=
  .next (if engine < Config.engines then s.endRun engine half up else s)

/-! ### Settling (R110, R111) -/

/-- An operation completes: its result, its flags, the held stores and the staged tiles of younger instructions. -/
def State.settleOk (s : State) (n : Nat) (o : TileOp) (r : RunResult) : State :=
  let c := s.core n
  let due := c.heldSt.filter fun h => decide (h.behind ≤ o.seq)
  let s1 := s.updCore n fun c =>
    { c with tops := c.tops.filter fun p => p.seq != o.seq,
             heldSt := c.heldSt.filter fun h => decide (o.seq < h.behind),
             staged := c.staged.filter fun p => decide (o.seq < p.2),
             wait := if c.wait = .tiles then .none else c.wait }
  match State.enterEach n (due.map fun h => h.entry) s1 with
  | none => s
  | some s =>
    let s := s.updCore n fun c =>
      c.mapArch fun a =>
        let a := a.putResult o.args o.shape r
        a.setCr nFPCSR (a.cr nFPCSR ||| r.flags.setWidth 64)
    let s := if o.shape.len = 0 ∧ !o.args.z then s else s.dropB n fun t => o.args.writes.contains t
    (s.zeroAfter n fun q => q == o.seq).noteFlags n r.flags

/-- The oldest unsettled operation of a core settles. -/
def State.settle (s : State) (n : Nat) : State :=
  match (s.core n).tops with
  | [] => s
  | o :: _ =>
    match o.stat with
    | .ended (.ok r) =>
      if r.flags &&& (s.core n).traps = 0 then s.settleOk n o r
      else
        let s := ((s.cancelTops n).raiseFlags n r.flags).updCore n fun c => { c with wait := .none }
        s.raise n 0x06 (r.flags.setWidth 64) o.engine o.half
    | .ended (.fault cause tval) =>
      ((s.cancelTops n).updCore n fun c => { c with wait := .none }).raise n cause tval o.engine o.half
    | _ => s

def execTileOpSettle (core : Nat) (s : State) : Out := .next (if core < Config.cores then s.settle core else s)

/-! ### Issue (R178 to R186, R198, R207) -/

/-- Whether a matrix-vector operation that issues now is recomputed (R207). -/
def Core.mvChecked (c : Core) : Bool := c.dotChecked (W64.fld (c.cr nMXCTRL) 1 0)

/-- A tmma with M or N of 1, on the dot units. -/
def thinMma (x : Ctx) (m : MmaArgs) (sh : MmaShape) (s : State) : Res :=
  let n := x.core
  let c := s.core n
  if !c.tops.isEmpty then .wait s .tiles
  else match c.arch.mmaPoison m sh with
    | some t => .trap s 0x09 (BitVec.ofNat 64 t)
    | none =>
      let s := (s.countCore n 0x42 1).updCore n fun c => { c with mvOps := c.mvOps + 1 }
      match c.arch.dotMma m sh c.mvChecked x.up with
      | none => .trap s 0x08 (BitVec.ofNat 64 m.c)
      | some r =>
        withFlags s n r.flags fun s =>
          .ok ((s.dropB n fun t => m.writes.contains t).updCore n fun c => { c with arch := c.arch.putResult m sh r })

/-- A tmma issues (R110, R181, R198). -/
def issueMma (x : Ctx) (F : Form) (m : MmaArgs) (s : State) : State :=
  let n := x.core
  runForm x F [] [] s fun s =>
    let c := s.core n
    if !m.ok then illegal F s
    else match c.arch.mmaShape m with
      | .inl t => .trap s 0x07 (BitVec.ofNat 64 t)
      | .inr sh =>
        if c.tops.length ≥ 16 then .wait s .tiles
        else if sh.m = 1 ∨ sh.n = 1 then
          match thinMma x m sh s with
          | .ok s => .ok (s.countCore n 0x40 1)
          | r => r
        else
          let o : TileOp :=
            { seq := c.nextTop, pc := c.arch.pc, args := m, snap := c.arch, stat := .waiting, runs := [], due := 0, pair := false,
              level := BitVec.ofNat 2 (W64.fld (c.cr nMXCTRL) 1 0), lends := s.lends n, engine := none, half := 0, younger := 0 }
          .ok ((s.setCore n { c with tops := c.tops ++ [o], nextTop := c.nextTop + 1 }).countCore n 0x40 1)

/-- R185: k and func [0] must be 0. -/
def execTmma (x : Ctx) (f : RF) (s : State) : Out :=
  let F := formRS 0x31 f
  .next (issueMma x { F with bad := F.bad || F.func.testBit 0 || decide (F.func / 16 = 0xA ∨ F.func / 16 = 0xB) } (mmaShort f) s)

/-- R186: long op 0xC8. -/
def execTmmaX (x : Ctx) (f : LF) (s : State) : Out :=
  .next (issueMma x { formL 0xC8 f with bad := f.imm.toNat.testBit 31 } (mmaLong f) s)

/-! ### tmv (R199 to R201) -/

/-- The fields of a tmv. -/
structure Tmv where
  fmt : Fmt
  acc : Acc
  z : Bool
  k : Nat
  stride : Nat
  mx : Bool

/-- The fields of a tmv, none where they are not allowed (R178, R200). -/
def tmvArgs (fi : Nat) (f : LF) (mx : Bool) : Option Tmv :=
  let a := f.md.toNat % 4
  let k := f.imm.toNat % 2 ^ 14
  if !comboOk fi fi a ∨ k > 8192 ∨ (mx ∧ !(5 ≤ fi ∧ fi ≤ 9)) then none
  else (fmtOf fi).map fun fm => ⟨fm, accOf a, f.md.toNat.testBit 2, k, f.imm.toNat / 2 ^ 14 * 32, mx⟩

/-- Elements of a row in memory (R44). -/
def unpackRow (f : Fmt) (k : Nat) (bs : List Byte) : List XVal :=
  let v := ofBytes bs
  (List.range k).map fun i =>
    let w := (v >>> (f.width * i)) % 2 ^ f.width
    if f = .lf48 then Fmt.f64.value (widenLf48 w) else f.value w

/-- Rows of W and their scale codes for the active outputs. -/
inductive Rows where
  | ok (s : State) (rows : List (Nat × List XVal × List Byte))
  | trap (s : State) (cause : Nat) (tval : W64)
  | wait (s : State) (w : Wait)

/-- Read the rows of W for some outputs. -/
def readRows (n : Nat) (up : List Upset) (t : Tmv) (base sbase : W64) :
    List Nat → List (Nat × List XVal × List Byte) → State → Rows
  | [], acc, s => .ok s acc
  | j :: rest, acc, s =>
    let pl := (s.core n).pl
    match s.load n pl up ⟨true, true, false⟩ (base + BitVec.ofNat 64 (j * t.stride)).toNat ((t.k * t.fmt.width + 7) / 8) with
    | (.trap s c v, _) => .trap s c v
    | (.wait s w, _) => .wait s w
    | (.ok s bs, _) =>
      let nb := (t.k + 31) / 32
      if !t.mx then readRows n [] t base sbase rest (acc ++ [(j, unpackRow t.fmt t.k bs, [])]) s
      else match s.load n pl [] ⟨true, true, false⟩ (sbase + BitVec.ofNat 64 (j * nb)).toNat nb with
        | (.trap s c v, _) => .trap s c v
        | (.wait s w, _) => .wait s w
        | (.ok s cs, _) => readRows n [] t base sbase rest (acc ++ [(j, unpackRow t.fmt t.k bs, cs)]) s

/-- The spans that a tmv reads for some outputs. -/
def tmvRuns (t : Tmv) (base sbase : W64) (js : List Nat) : List Run :=
  (js.map fun j =>
    let nb := (t.k + 31) / 32
    ⟨(base + BitVec.ofNat 64 (j * t.stride)).toNat, (t.k * t.fmt.width + 7) / 8, []⟩ ::
      (if t.mx then [⟨(sbase + BitVec.ofNat 64 (j * nb)).toNat, nb, []⟩] else [])).flatten

/-- Read the rows of a tmv, which is not resumable: the first cause of all its rows is raised (R107, R201). -/
def State.tmvRows (s : State) (n : Nat) (up : List Upset) (t : Tmv) (base sbase : W64) (js : List Nat) : Rows :=
  match readRows n up t base sbase js [] s with
  | .trap s1 c v =>
    match State.loadCause n up ⟨true, true, false⟩ (tmvRuns t base sbase js) [] none s with
    | (s2, some (.inl c)) => .trap s2 c.1 c.2
    | (s2, some (.inr w)) => .wait s2 w
    | (_, none) => .trap s1 c v
  | r => r

/-- A tmv on core `x.core`. -/
def runTmv (x : Ctx) (F : Form) (ft : Option Tmv) (s : State) : State :=
  let n := x.core
  match ft with
  | none => runForm x F [] [] s fun s => illegal F s
  | some t =>
    let g := (s.core n).group
    let wa := t.acc.hold.width
    let h := (s.core n).shape wa F.k
    let d : VOp := ⟨F.d, wa, g⟩
    let xs : VOp := ⟨F.b, t.fmt.regW, g⟩
    let sc := vone (F.b + g) 8
    let apart := fun (o : VOp) => decide (d.reg + d.r ≤ o.reg ∨ o.reg + o.r ≤ d.reg)
    runForm x F (codeG F.a ++ (if t.mx then codeG (F.a + 1) ++ sc.codes else []) ++ xs.codes ++ codeK F.k ++
        (if t.z then [] else d.codes)) (d.whole h.n h.all) s fun s =>
      let c := s.core n
      let r := c.arch
      if d.odd || xs.odd || !apart xs || decide (t.k > g * 4096 / t.fmt.regW) ||
          (t.mx && (decide (F.a > 30 ∨ F.b + g > 31) || !apart sc)) then illegal F s
      else if !c.tops.isEmpty then .wait s .tiles
      else match s.tmvRows n x.up t (r.rg F.a) (r.rg (F.a + 1)) h.elems with
        | .trap s k v => .trap s k v
        | .wait s w => .wait s w
        | .ok s rows =>
          let xv := (List.range t.k).map fun i =>
            let w := r.el xs i
            let v := if t.fmt = .lf48 then asLf48 w else (w, 0)
            (t.fmt.held.value v.1, v.2)
          let xf := if rows.isEmpty then 0 else xv.foldl (fun (f : Flags) p => f ||| p.2) 0
          let outs := rows.map fun row =>
            let ps := products (xv.map fun p => p.1) row.2.1
            let scale := fun j =>
              if t.mx then bothScales (scaleExp (r.el sc j)) (scaleExp (row.2.2.getD j 0).toNat) else some 0
            let c0 := if t.z then (0, 0)
              else if t.acc = .lf48 ∧ t.k ≠ 0 then asLf48 (r.el d row.1) else (r.el d row.1, 0)
            let v := dotRef t.fmt t.acc c0.1 ps scale
            (v.1, v.2 ||| c0.2)
          let fl := outs.foldl (fun (f : Flags) o => f ||| o.2) xf
          let s := (s.countCore n 0x42 1).updCore n fun c => { c with mvOps := c.mvOps + 1 }
          match mvOutcome c.mvChecked x.up wa (outs.map fun o => o.1) with
          | none => .trap s 0x08 (BitVec.ofNat 64 (0x100 + F.d))
          | some vs =>
            withFlags s n fl fun s =>
              .ok (s.updCore n fun c =>
                { c with arch := c.arch.putEls d ((rows.map fun row => row.1).zip vs) })

def execTmv (x : Ctx) (fi : BitVec 4) (f : LF) (s : State) : Out :=
  .next (runTmv x (formL (0xD0 + fi.toNat) f) (tmvArgs fi.toNat f false) s)

def execTmvMx (x : Ctx) (fi : BitVec 4) (f : LF) (s : State) : Out :=
  .next (runTmv x (formL (0xE0 + fi.toNat) f) (tmvArgs fi.toNat f true) s)

/-! ### Verdict records and self-tests (R214, R418, R419) -/

/-- Firmware writes the entry of a change of standing (R425) and starts the self-test of a quarantined engine (R213). -/
def State.noteHistory (s : State) (m : EngNote) : State :=
  match m with
  | .redirect e r => s.history 0x01 0 e (BitVec.ofNat 64 r) 0
  | .quarantine e o c =>
    (s.history 0x02 0 e (BitVec.ofNat 64 o) (BitVec.ofNat 32 c)).updEng e fun x =>
      if x.state = .quarantined then { x with state := .testing } else x
  | .retire e lane => s.history 0x03 0 e 1 (BitVec.ofNat 32 lane)

/-- Firmware takes the oldest verdict record. -/
def execVerdictRecord (s : State) : Out :=
  .next (match s.ctl.verdicts with
    | [] => s
    | r :: t =>
      if s.ctl.stalled then s
      else
        let s := { s with ctl := { s.ctl with verdicts := t } }
        let s := if r.verdict = 2 then s.history 0x05 0 r.engine (BitVec.ofNat 64 r.other) (BitVec.ofNat 32 r.core) else s
        (r.notes.foldl (fun s m => s.noteHistory m) s).syncHealth)

/-- Entries of the fault history. -/
def State.entries (s : State) : List HistEntry := s.fault.entries

def Lanes.lower : Lanes → Bool
  | .lower => true
  | .both => true
  | .none => false
  | .upper => false

def Lanes.upper : Lanes → Bool
  | .upper => true
  | .both => true
  | .none => false
  | .lower => false

/-- An engine is retired after a self-test (R417, R418). -/
def State.retireTested (s : State) (e reason source : Nat) : State :=
  let x := s.eng e
  let lane := if x.laneHits.isEmpty then 0xFF else x.lane
  let s := s.setEng e { x with state := .retired, ok := false, chkredir := false, redir := 0, why := .none, testDue := false,
                               asked := none }
  ((s.history 0x03 source e (BitVec.ofNat 64 reason) (BitVec.ofNat 32 lane)).leaveService e).syncHealth

/-- The self-test of an engine has ended (R390, R417 to R419). `quar` where a quarantine brought it. -/
def State.engineTested (s : State) (e : Nat) (bad : Lanes) (source : Nat) (quar : Bool) : State :=
  let x := s.eng e
  let lo := x.lower || Lanes.lower bad
  let up := x.upper || Lanes.upper bad
  let fresh := (Lanes.lower bad && !x.lower) || (Lanes.upper bad && !x.upper)
  if lo && up then s.retireTested e 2 source
  else if quar && decide ((s.entries.filter fun h => h.kind == 0x02 && h.unit == e).length ≥ 3) then s.retireTested e 3 source
  else
    let s := s.setEng e { x with state := .service, ok := true, lower := lo, upper := up, why := .none, testDue := false, asked := none,
                                 chkredir := x.chkredir && fresh, redir := if fresh then x.redir else 0 }
    let s := if fresh then
        s.history 0x06 source e (if Lanes.upper bad then 1 else 0) (BitVec.ofNat 32 x.lane) else s
    let s := if quar then s.history 0x04 source e 1 0 else s
    (if x.chkredir && !fresh then s.history 0x04 source e 2 0 else s).syncHealth

end Sys2Proof.Machine
end

