-- ==== Sys2Proof/Machine/BootEvents.lean ====
section
/-! DEFINITION. Resets and boot as events of the lands and the boot ROM (R437 to R449, R484, R485), the per-core
reset and release (R119, R439) and the end of self-tests (R390, R416 to R420). -/

namespace Sys2Proof.Machine

/-! ### Whole-device resets -/

/-- R438, R446, R484: PWRGOOD rises with the rails good. A tripped device ignores it (R491). -/
def execColdReset (s : State) : Out :=
  if s.pins.tripped then .next s
  else
    let s := s.resetWhole .cold
    .next ({ s with pins := { s.pins with pwrgood := true, clocks := true }, jtag := Jtag.reset } : State).startBoot

/-- R437, R438: an assertion of PERST#. -/
def execWarmReset (s : State) : Out :=
  let s := if s.running then s.resetWhole .warm else s
  .next { s with pins := { s.pins with perstHigh := false } }

/-- R446: the deassertion of PERST# starts the boot ROM, where power is good. -/
def execPerstDeassertion (s : State) : Out :=
  if s.pins.perstHigh then .next s
  else .next ({ s with pins := { s.pins with perstHigh := true } } : State).startBoot

/-- R444, R446, R449: the boot ROM has checked the image, and starts firmware or enters recovery mode. -/
def execFirmwareStart (s : State) : Out :=
  .next (if !s.linkUp || s.sec.stage != 0 then s
    else if s.imageFault = 0 then s.startFirmware else s.recovery s.imageFault)

/-- R445: an image that carries RAISE raises the floor of the fuses to its SVN. -/
def State.raiseSvn (s : State) : State :=
  if s.sec.raise && decide (s.sec.fuses.svnFloor < s.sec.svn) then
    { s with sec := { s.sec with fuses := { s.sec.fuses with svnFloor := min 64 s.sec.svn } } }
  else s

/-- R446, R447: zero-marking is complete, cores are released at M into firmware, mailboxes are served and READY_N is
low. Where firmware stands in memory is not stated. -/
def execBootReady (s : State) : Out :=
  if !s.running || s.sec.stage ≠ 2 then .next s
  else
    let entry := Config.freeValue s.free
    let s : State := { s with mem := { s.mem with served := true }, sec := { s.sec with stage := 3 },
                              pins := { s.pins with readyN := .low } }
    -- In the fatal state no core runs (R422). Requests that waited for memory at the home are served.
    let s := if s.fault.fatal then s else allCores.foldl (fun (s : State) n => s.releaseCore n entry) s
    .next (s.raiseSvn.flushHome).draw

/-! ### One core -/

/-- R439: once the store buffer has drained, the core's tile work is cancelled and its state zeroed. -/
def execPerCoreReset (core : Nat) (s : State) : Out :=
  if core ≥ Config.cores || !(s.core core).resetting || s.bufferOut core then .next s
  else .next (s.finishCoreReset core)

/-- R119, R439: firmware releases the core. -/
def execCoreRelease (core : Nat) (entry : W64) (s : State) : Out :=
  if core ≥ Config.cores || !s.serving || s.fault.fatal then .next s else .next (s.releaseCore core entry)

/-! ### Self-tests (R390, R416 to R420) -/

/-- Faults in lanes that were in use. -/
def Engine.newFault (e : Engine) (b : Lanes) : Bool := (Lanes.lower b && !e.lower) || (Lanes.upper b && !e.upper)

/-- The result of a SELFTEST command (R387): results of the unit and of the core's engines, and the epoch of the
return to service, for which nothing is stated where the unit does not return. -/
def State.testResult (s : State) (mb : Nat) (fails : Bool) (engines : Nat) (back : Bool) : State :=
  let e := if back then s.tb.epoch.toNat else W64.fld (Config.freeValue s.free) 47 0
  (s.setReady mb (if fails then stFailed else stOk)
    (bytesOf 1 (b1 fails) ++ bytesOf 1 engines ++ bytesOf 6 0 ++ bytesOf 8 e)).draw

/-- The self-test of a quarantine ends; where it took over a test by command, that command has its result (R385, R390). -/
def State.endQuarantine (s : State) (e : Nat) (b : Lanes) : State :=
  let x := s.eng e
  let s := s.engineTested e b 1 true
  match x.asked with
  | some mb => s.testResult mb (x.newFault b) 0 ((s.eng e).state == .service)
  | none => s

/-- R418: of an engine that finishes the operation it runs first (R390), once firmware has taken the record of its
quarantine. -/
def execEngineSelftestEnd (engine : Nat) (bad : Lanes) (s : State) : Out :=
  let x := s.eng engine
  .next (if engine ≥ Config.engines ∨ x.state ≠ .testing ∨ !x.idle ∨ s.ctl.stalled then s
    else match x.why with
      | .quarantine => s.endQuarantine engine bad
      | .boot => s.engineTested engine bad 2 true
      | .redirect => s.engineTested engine bad 2 false
      | _ => s)

/-- An engine's self-test by command, or an automatic one, ends (R390, R417). The test of an engine that was retired
meanwhile reports what it finds (R385). -/
def State.endEngineTest (s : State) (e : Nat) (b : Lanes) : State :=
  let x := s.eng e
  if !x.idle then s
  else if x.state = .retired then
    match x.askedBy with
    | some mb => (s.updEng e fun x => { x with why := .none, asked := none }).testResult mb (x.newFault b) 0 false
    | none => s
  else if x.state ≠ .testing then s
  else match x.why with
    | .command mb =>
      let s := s.engineTested e b 3 false
      s.testResult mb (x.newFault b) 0 ((s.eng e).state == .service)
    | .automatic => s.engineTested e b 1 false
    | _ => s

/-- A core that fails its test is retired: per-core reset, and never released (R420, R437). -/
def State.retireCore (s : State) (n : Nat) (auto : Bool) : State :=
  let s := s.updCore n fun c => { c with retired := true, resetting := true, noTake := true }
  (s.history 0x07 (if auto then 1 else 3) n (if auto then 1 else 2) 0).syncHealth

/-- Engines of a core that its test covers. -/
def State.testedWith (s : State) (n : Nat) : List Nat :=
  ((List.range 8).map fun i => 8 * n + i).filter fun e =>
    (s.eng e).state == .testing && match (s.eng e).why with
      | .none => true
      | .command _ => true
      | .automatic => true
      | _ => false

/-- The test of a core with its engines ends (R390): each unit is judged by its own result. -/
def State.endCoreTest (s : State) (n : Nat) (bad : List Lanes) (coreFails : Bool) : State :=
  match s.ctl.coreTests.find? fun t => t.core = n ∧ t.running with
  | none => s
  | some t =>
    let es := s.testedWith n
    if es.any fun e => !(s.eng e).idle then s
    else
      let lanes := fun (e : Nat) => bad.getD (e % 8) Lanes.none
      let mask := es.foldl (fun m e => if (s.eng e).newFault (lanes e) then m + 2 ^ (e % 8) else m) 0
      let s := es.foldl (fun (s : State) e =>
        match (s.eng e).why with
        | .command _ => s.endEngineTest e (lanes e)
        | _ => s.engineTested e (lanes e) (if t.mb.isSome then 3 else 1) false) s
      let s : State := { s with ctl := { s.ctl with coreTests := s.ctl.coreTests.filter fun x => x.core != n } }
      let s := if coreFails then s.retireCore n t.mb.isNone else s.updCore n fun c => { c with noTake := false }
      match t.mb with
      | some mb => s.testResult mb coreFails mask (!coreFails)
      | none => s

/-- R390: the self-test of a SELFTEST command, or an automatic one, ends. -/
def execSelftestComplete (isCore : Bool) (unit : Nat) (bad : List Lanes) (coreFails : Bool) (s : State) : Out :=
  .next (if !s.serving then s
    else if isCore then if unit < Config.cores then s.endCoreTest unit bad coreFails else s
    else if unit < Config.engines then s.endEngineTest unit (bad.getD 0 Lanes.none) else s)

/-! ### Loss of power and thermal trip (R485, R491) -/

/-- The device keeps no state but its fuses and its flash: clocks stop and every output is released (R485). -/
def State.powerDown (s : State) : State :=
  let s := s.resetWhole .cold
  { s with pins := { s.pins with clocks := false }, jtag := Jtag.reset }

/-- R485: a loss of power. After a trip only the removal of VDDIO counts (R491). -/
def execPowerLoss (why : PowerCause) (s : State) : Out :=
  let good := s.pins.pwrgood && decide (why ≠ .pwrgood)
  if s.pins.tripped ∧ why ≠ .vddio then .next { s with pins := { s.pins with pwrgood := good } }
  else
    let s := s.powerDown
    .next { s with pins := { s.pins with pwrgood := good, tripped := false, thermtripN := .released } }

/-- The trip of R491: clocks stop, THERMTRIP_N is low and every other output is released. -/
def State.trip (s : State) : State :=
  let s := s.powerDown
  { s with pins := { s.pins with tripped := true, thermtripN := .low } }

/-- R491: a junction sensor reaches 115 °C. -/
def execThermalTrip (s : State) : Out := .next (if s.pins.clocks then s.trip else s)

end Sys2Proof.Machine
end

