-- ==== Sys2Proof/Machine/HostEvents.lean ====
section
/-! DEFINITION. Host accesses through BAR2 (R375, R414), function resets (R377), the hold-off of messages (R378), and
the fatal state (R372, R422). -/

namespace Sys2Proof.Machine

/-! ### BAR2 -/

/-- The local physical address of a BAR2 offset: BASE bits below the size of BAR2 count as zero (R375). -/
def State.bar2Addr (s : State) (off : Nat) : Nat :=
  let n := 2 ^ s.ctl.bar2
  s.regF (wMBX + 0x18) 46 30 * 2 ^ 30 / n * n + off

/-- Memory is served to the host: not before zero-marking is complete, nor in recovery mode (R311, R446, R449). -/
def State.memServed (s : State) : Bool := s.mem.served && s.sec.stage == 3

/-- The lines of a span with the sectors it touches, in order. -/
def spanLines (a n : Nat) : List (Nat × BitVec 4) :=
  (List.range ((a % 128 + n + 127) / 128)).map fun i =>
    let l := a / 128 + i
    (l, BitVec.ofNat 4 (ofBits ((List.range 4).map fun q => decide (a < 128 * l + 32 * q + 32) && decide (128 * l + 32 * q < a + n))))

/-- Lines are read through their home slices, in order; whether a sector came poisoned. -/
def State.readSpan (s : State) (ls : List (Nat × BitVec 4)) : State × Bool :=
  ls.foldl (fun (r : State × Bool) p =>
    let t := r.1.sliceRead p.1 p.2
    (t, r.2 || (sectors p.2).any fun i => t.poisoned (4 * p.1 + i))) (s, false)

/-- R375, R414: committed data through the home slice, with EP where a sector is poisoned. -/
def execBar2Read (off size : Nat) (s : State) : Out :=
  if !s.hostServed then .next s
  else
    let a := s.bar2Addr off
    if !s.memServed || !visible a size then .next (s.hostAnswer [] false true)
    -- It waits for the copy of a failed row (R308).
    else if (spanLines a size).any fun p => s.lineCopying p.1 then .next s
    else
      let r := s.readSpan (spanLines a size)
      let s := r.1
      let ep := r.2
      let s := s.hostAnswer (s.bytesAt a size) ep false
      .next (if ep then { s with ctl := { s.ctl with aer := true } } else s)

/-- R375, R414: a write, dropped outside visible memory; with EP every sector it touches is poisoned. -/
def execBar2Write (off : Nat) (bytes : List Byte) (ep : Bool) (s : State) : Out :=
  if !s.hostServed then .next s
  else
    let a := s.bar2Addr off
    if !s.memServed || !visible a bytes.length || (spanLines a bytes.length).any fun p => s.lineCopying p.1 then .next s
    else .next (s.commitSpan a bytes ep)

/-! ### The function and its messages -/

/-- R377: configuration space, BAR assignments and the MSI-X table return to their reset values; nothing else does. -/
def execFunctionReset (_kind : FnReset) (s : State) : Out :=
  .next { s with ctl := { s.ctl with configured := false, bar0At := 0, bar2At := 0, msixPend := 0, msixTable := [], bar2 := 36, aer := false } }

/-- R378: the message owed on a vector is sent, 2 µs after the one before. -/
def execMsixHoldoff (vector : Nat) (s : State) : Out :=
  if vector = 1 ∧ s.ctl.msixOwed1 ∧ s.ctl.msixAt1 + holdoffTicks ≤ s.tb.now + 1 then
    .next (({ s with ctl := { s.ctl with msixOwed1 := false, msixAt1 := s.tb.now + 1 } } : State).msix 1)
  else if vector = 3 ∧ s.ctl.msixOwed3 ∧ s.ctl.msixAt3 + holdoffTicks ≤ s.tb.now + 1 then
    .next (({ s with ctl := { s.ctl with msixOwed3 := false, msixAt3 := s.tb.now + 1 } } : State).msix 3)
  else .next s

/-! ### The fatal state -/

/-- FAULT_N is low, running cores stop, and the entry is written (R422, R425). -/
def State.enterFatal (s : State) (why : Nat) : State :=
  let s := s.mapCores fun _ c => if c.mode = .running then { c with mode := .stopped } else c
  let s : State := { s with fault := { s.fault with fatal := true, fatalWhy := why }, pins := { s.pins with faultN := .low } }
  (s.history 0x0D 0 noUnit (BitVec.ofNat 64 why) 0).syncHealth

/-- R372: a control processor has stalled. -/
def execControlProcessorStall (processor : Nat) (s : State) : Out :=
  if !s.firmwareRuns || processor ≥ 4 || s.ctl.stalled then .next s
  else
    let s : State := { s with ctl := { s.ctl with stalled := true } }
    .next (if s.fault.fatal then s else s.enterFatal 1)

/-- R408, R422: an internal link gives up. -/
def execLinkFailure (link : IntLink) (s : State) : Out :=
  if !s.firmwareRuns || s.fault.fatal then .next s
  else .next (s.enterFatal (match link with
    | .dieToDie => 2
    | .control0 => 3
    | .control1 => 4))

end Sys2Proof.Machine
end

