-- ==== Sys2Proof/Machine/Lists.lean ====
section
/-! DEFINITION. Command lists: reading records (R389, R392, R394), task descriptors and their placement (R218 to
R220, R229, R233, R242), versions (R232, R241), barriers, copies and marks. -/

namespace Sys2Proof.Machine

/-! ### Records -/

/-- A number in the bytes of a record. -/
def rnum (r : List Byte) (o n : Nat) : Nat := ofBytes ((r.drop o).take n)

/-- The bytes of a record that are not reserved, by KIND (R394). -/
def recordFields : List (Nat × List (Nat × Nat)) :=
  [(0x01, [(8, 8)]), (0x02, [(8, 2), (12, 4), (16, 2)]), (0x03, [(8, 6)]), (0x04, [(8, 1), (16, 16)]), (0x05, [(8, 2)]),
   (0x06, []), (0x07, [(8, 24), (32, 2), (36, 4)]), (0x08, [(8, 24), (32, 2), (36, 4)]), (0x09, [(8, 8)])]

/-- A sheaf number, or 0xFFFF for none. -/
def sheafOrNone (n : Nat) : Bool := decide (n < Config.sheaves) || n == 0xFFFF

/-- Values that a record's fields may hold (R241, R243, R394). -/
def recordValues (r : List Byte) : Bool :=
  let k := rnum r 0 1
  if k = 0x02 then decide (rnum r 8 2 < Config.sheaves) && decide (1 ≤ rnum r 16 2)
  else if k = 0x04 then
    decide (rnum r 8 1 < 16) && sheafOrNone (rnum r 16 2) && decide (rnum r 18 1 < 2) && decide (rnum r 19 1 < 96) && rnum r 24 8 == 0
  else if k = 0x05 then decide (rnum r 8 1 < 16) && decide (rnum r 9 1 ≤ 2)
  else if k = 0x07 ∨ k = 0x08 then sheafOrNone (rnum r 32 2)
  else true

/-- A reserved KIND, or a reserved field that is not zero: reason 0x01 (R392). -/
def recordBad (r : List Byte) : Bool :=
  match recordFields.find? fun f => f.1 = rnum r 0 1 with
  | none => true
  | some f =>
    !(rnum r 1 1 == 0 || (f.1 == 0x09 && rnum r 1 1 == 1)) || !recordValues r ||
      (List.range 62).any fun i => r.getD (i + 2) 0 != 0 && !(f.2.any fun u => decide (u.1 ≤ i + 2) && decide (i + 2 < u.1 + u.2))

/-- How a record ends, or that it waits. -/
inductive RecRes where
  | done (s : State)
  | fail (s : State) (reason : Nat)
  | wait (s : State)

/-- The list at the front leaves; its SUBMIT has its result (R387, R392). -/
def State.endList (s : State) (j : ListJob) (st : Byte) (read fail reason : Nat) : State :=
  ({ s with ctl := { s.ctl with lists := s.ctl.lists.tail } } : State).setReady j.mb st
    (bytesOf 4 read ++ bytesOf 4 fail ++ bytesOf 1 reason)

def State.failRecord (s : State) (j : ListJob) (reason : Nat) : State := s.endList j stFailed (j.next + 1) j.next reason

/-- The record is done: the next one, or the end of the list. -/
def State.nextRecord (s : State) (j : ListJob) : State :=
  if j.count ≤ j.next + 1 then s.endList j stOk (j.next + 1) 0xFFFFFFFF 0
  else { s with ctl := { s.ctl with lists :=
    { j with next := j.next + 1, seen := false, hold := .none, waited := 0, stopped := false } :: s.ctl.lists.tail } }

/-- Sectors of a line from an address within it, read through its home slice (R234, R389). -/
def State.readLine (s : State) (a n : Nat) : State :=
  s.sliceRead (a / 128) (BitVec.ofNat 4 (2 ^ (a % 128 / 32) * (2 ^ (n / 32) - 1)))

/-- The record at the front of the lists is read from memory, once (R389). -/
def State.readRecord (s : State) : State :=
  match s.ctl.lists with
  | [] => s
  | j :: t =>
    let a := j.addr + 64 * j.next
    if j.seen || !visible a 64 then s
    else { s.readLine a 64 with ctl := { (s.readLine a 64).ctl with lists := { j with seen := true } :: t } }

/-- The record at the front waits for something. -/
def State.holdRecord (s : State) (w : ListWait) : State :=
  match s.ctl.lists with
  | [] => s
  | j :: t => { s with ctl := { s.ctl with lists := { j with hold := w } :: t } }

/-- Firmware stands at the record at the front of the lists: no link has failed (R422), no list accepted before waits for its SUBMIT, and no row of
the record is being copied (R308, R389). -/
def State.atRecord (s : State) (j : ListJob) : Bool :=
  s.serving && !s.fault.fatal && !s.submitBefore j.jseq && !s.lineCopying ((j.addr + 64 * j.next) / 128)

/-- The record at the front of the lists, where it has this KIND; a record that cannot be read or is reserved
fails whatever is expected (R389, R392). -/
def State.onRecord (s : State) (kind : Nat) (f : ListJob → List Byte → State → RecRes) : State :=
  match s.ctl.lists with
  | [] => s
  | j :: _ =>
    let a := j.addr + 64 * j.next
    if !s.atRecord j then s
    else
      let s := s.readRecord
      if !visible a 64 || s.spanPoisoned a 64 then s.failRecord j 0x07
      else
        let r := s.bytesAt a 64
        if recordBad r then s.failRecord j 0x01
        else if rnum r 0 1 ≠ kind then s
        else match f j r s with
          | .done s => s.nextRecord j
          | .fail s k => s.failRecord j k
          | .wait s => s

/-! ### TASK (R218 to R220, R229, R233, R242) -/

/-- Used entries of four: sheaf and number. -/
def usedEntries (d : List Byte) (o : Nat) : List (Nat × Nat) :=
  ((List.range 4).filter fun i => rnum d (o + 8 * i) 2 != 0xFFFF).map fun i => (rnum d (o + 8 * i) 2, rnum d (o + 8 * i + 4) 4)

/-- Every reserved field is zero and each field holds a value that R218 allows (R219). -/
def descOk (d : List Byte) : Bool :=
  let b30 := rnum d 30 1
  let b31 := rnum d 31 1
  (decide (rnum d 28 1 < 96) || rnum d 28 1 == 0xFF) && (decide (rnum d 29 1 < 24) || rnum d 29 1 == 0xFF) &&
    decide (b30 < 64) && b30 % 4 != 3 && (b30.testBit 5 || b31 / 16 == 0) && (b30.testBit 4 || b31 % 16 == 0) &&
    (List.range 8).all fun i => rnum d (32 + 8 * i + 2) 2 == 0 && sheafOrNone (rnum d (32 + 8 * i) 2)

/-- The fields that are copied at placement (R218, R219). -/
def parseDesc (a : Nat) (d : List Byte) : TaskDesc :=
  let b30 := rnum d 30 1
  let b31 := rnum d 31 1
  { addr := BitVec.ofNat 64 a, seed := BitVec.ofNat 64 (rnum d 16 8), taskid := BitVec.ofNat 32 (rnum d 24 4),
    slot := rnum d 28 1, affinity := rnum d 29 1, watch := b30.testBit 5, spec := b30.testBit 4,
    check := BitVec.ofNat 2 (b30 / 4), scope := BitVec.ofNat 2 b30, watchv := b31 / 16, version := b31 % 16,
    waits := usedEntries d 32, sigs := usedEntries d 64 }

/-- The queue that a task enters: its own, or the one with the fewest tasks, the lowest where they tie (R220). -/
def State.queueFor (s : State) (d : TaskDesc) : Nat :=
  if d.affinity ≠ 0xFF then d.affinity
  else (List.range Config.clusters).foldl (fun m q => if (s.queue q).length < (s.queue m).length then q else m) 0

/-- Each queue has 512 entries (R229). -/
def queueSize : Nat := 512

/-- R242, R229: the watched version, the queue's room, and the placement. -/
def State.placeTask (s : State) (d : TaskDesc) (spec : Bool) : RecRes :=
  let w := (s.ver d.watchv).state
  if d.watch ∧ (w = .free ∨ w = .discarding) then .fail s 0x0A
  else
    let q := s.queueFor d
    if queueSize ≤ (s.queue q).length then .wait s
    else
      let t : QTask := ⟨s.nextTask, d, spec⟩
      .done { s.setQueue q (s.queue q ++ [t]) with live := s.live ++ [(s.nextTask, d.slot)], nextTask := s.nextTask + 1 }

/-- A descriptor that passes the check is placed, dropped or refused by its version (R233). -/
def State.placeDesc (s : State) (d : TaskDesc) : RecRes :=
  let v := s.ver d.version
  if !d.spec then s.placeTask d false
  else if v.undecided then s.placeTask d true
  else if v.last = 1 then s.placeTask d false
  else if v.last = 2 then .done (s.reportDiscarded noUnit d)
  else .fail s 0x05

/-- A TASK record. -/
def State.taskRecord (r : List Byte) (s : State) : RecRes :=
  let a := rnum r 8 8
  if a % 128 ≠ 0 then .fail s 0x02
  else if !visible a 128 then .fail s 0x07
  else if s.lineCopying (a / 128) then .wait s
  else if (s.readLine a 128).spanPoisoned a 128 then .fail (s.readLine a 128) 0x07
  else
    let s := s.readLine a 128
    let d := s.bytesAt a 128
    if !descOk d then .fail s 0x02 else s.placeDesc (parseDesc a d)

def execTask (s : State) : Out := .next (s.onRecord 0x01 fun _ r s => s.taskRecord r)

/-! ### BARRIER and WAIT_EPOCH -/

/-- The sheaf of a BARRIER has reached its COUNT. -/
def State.barrierMet (s : State) (r : List Byte) : Bool := decide (rnum r 12 4 ≤ (s.sheaf (rnum r 8 2)).toNat)

/-- DEADLINE boundaries passed before the sheaf reached its COUNT. -/
def ListJob.barrierLate (j : ListJob) (r : List Byte) : Bool := decide (rnum r 16 2 ≤ j.waited)

def execBarrier (s : State) : Out :=
  .next (s.onRecord 0x02 fun j r s =>
    if j.barrierLate r then .fail s 0x06
    else if s.barrierMet r then .done s
    else .wait (s.holdRecord (.barrier (rnum r 8 2) (rnum r 12 4))))

/-- DEADLINE boundaries have passed while the record waited. -/
def execBarrierDeadline (s : State) : Out :=
  .next (s.onRecord 0x02 fun j r s => if j.barrierLate r then .fail s 0x06 else .wait s)

def execWaitEpoch (s : State) : Out :=
  .next (s.onRecord 0x03 fun j r s =>
    if j.stopped ∨ s.tb.mode = .stopped then .fail s 0x09
    else if rnum r 8 6 ≤ s.tb.epoch.toNat then .done s else .wait (s.holdRecord (.epoch (rnum r 8 6))))

/-! ### Versions (R232, R240, R241) -/

/-- SPEC_BEGIN opens a FREE version with its guard, which then acts. -/
def State.specBegin (r : List Byte) (s : State) : RecRes :=
  let v := rnum r 8 1
  let x := s.ver v
  if x.state ≠ .free then .fail s 0x03
  else
    let y : Version := { Version.reset with
      state := .opened, last := x.last, cap := rnum r 19 1, guardSheaf := rnum r 16 2, finite := (rnum r 18 1).testBit 0,
      guardCount := rnum r 20 4 }
    .done (State.guards Config.versions (s.setVer v y))

def execSpecBegin (s : State) : Out := .next (s.onRecord 0x04 fun _ r s => s.specBegin r)

/-- SPEC_END closes an OPEN version and applies any verdict. -/
def State.specEnd (r : List Byte) (s : State) : RecRes :=
  let v := rnum r 8 1
  if (s.ver v).state ≠ .opened then .fail s 0x04
  else
    let s := s.updVer v fun x => { x with state := .closed }
    if !(s.ver v).undecided then .done s
    else if rnum r 9 1 = 1 then .done (State.guards Config.versions (s.commit v 1))
    else if rnum r 9 1 = 2 then .done (s.discard v 1 false)
    else .done s

def execSpecEnd (s : State) : Out := .next (s.onRecord 0x05 fun _ r s => s.specEnd r)

/-! ### FENCE, COPY, FILL, MARK -/

/-- Every task placed before has ended, and every COPY and FILL started before has completed. -/
def State.fenceMet (s : State) : Bool := s.live.isEmpty && s.ctl.copies.all fun c => c.ckpt.isSome

def execFenceRecord (s : State) : Out := .next (s.onRecord 0x06 fun _ _ s => if s.fenceMet then .done s else .wait s)

/-- COPY (R395). -/
def execCopy (s : State) : Out :=
  .next (s.onRecord 0x07 fun j r s =>
    let src := rnum r 8 8
    let dst : W64 := BitVec.ofNat 64 (rnum r 16 8)
    if s.copyBad src dst (rnum r 24 8) then .fail s 0x08
    else .done (s.startCopy src dst (rnum r 24 8) none (rnum r 32 2) (rnum r 36 4) none j.next))

/-- FILL. -/
def execFill (s : State) : Out :=
  .next (s.onRecord 0x08 fun j r s =>
    let dst := rnum r 8 8
    if fillBad dst (rnum r 16 8) then .fail s 0x08
    else .done (s.startCopy 0 (BitVec.ofNat 64 dst) (rnum r 16 8) (some (BitVec.ofNat 64 (rnum r 24 8))) (rnum r 32 2)
      (rnum r 36 4) none j.next))

/-- MARK posts a report, acting as FENCE first where FLAGS asks (R394, R397). -/
def execMark (s : State) : Out :=
  .next (s.onRecord 0x09 fun j r s =>
    if rnum r 1 1 = 1 ∧ !s.fenceMet then .wait s
    else .done (s.report 0x05 noUnit (BitVec.ofNat 32 j.jseq) (BitVec.ofNat 64 (rnum r 8 8)) (BitVec.ofNat 64 j.next)))

/-! ### Copies and checkpoints (R395, R396) -/

/-- A COPY or FILL completes. -/
def execCopyComplete (id : Nat) (s : State) : Out :=
  match s.copyJob id with
  | some j => .next (if j.ckpt.isSome then s else s.finishCopy id)
  | none => .next s

def execCheckpointCopy (idx : Nat) (s : State) : Out := .next (s.copyCheckpoint idx)
def execCheckpointComplete (idx : Nat) (s : State) : Out := .next (s.completeCheckpoint idx)

end Sys2Proof.Machine
end

