-- ==== Sys2Proof/Machine/Power.lean ====
section
/-! DEFINITION. Temperatures and the ladder of the stacks (R304, R305), junction caps (R489, R490), the power governor
(R493 to R496), and the test port (R481). -/

namespace Sys2Proof.Machine

/-! ### Stacks (R304, R305) -/

/-- A rung holds at a temperature: it enters at `up` and leaves at `down`. -/
def rung (t up down : Nat) (was : Bool) : Bool := decide (up ≤ t) || (was && decide (down < t))

/-- The refresh level that a sample asks for, from the one asked for before. -/
def refreshTarget (t r : Nat) : Nat :=
  if rung t 96 92 (decide (2 ≤ r)) then 2 else if rung t 86 82 (decide (1 ≤ r)) then 1 else 0

/-- The zone step that a sample asks for. -/
def zoneTarget (t z : Nat) : Nat :=
  if rung t 111 107 (decide (3 ≤ z)) then 3
  else if rung t 106 102 (decide (2 ≤ z)) then 2
  else if rung t 101 97 (decide (1 ≤ z)) then 1
  else 0

/-- R304, R305, R491, R501: a sample; at 115 °C firmware trips the device. -/
def execStackTempSample (stack temp : Nat) (s : State) : Out :=
  if stack ≥ Config.dramStacks || !s.pins.clocks then .next s
  else
    let x := s.stack stack
    let r := refreshTarget temp x.refxNext
    let z := zoneTarget temp x.zoneNext
    let new := z == 3 && x.zoneNext != 3
    let y : Stack := { x with temp := min 255 temp, refx := max x.refx r, refxNext := r, zoneNext := z, crit := x.crit || new }
    let s := s.setStack stack y
    let s := if new then s.report 0x0C stack 0 3 (BitVec.ofNat 64 temp) else s
    let s := s.syncSensor (5 + stack / 16)
    .next (if 115 ≤ temp then s.trip else s)

/-! ### Junctions (R489, R490, R464) -/

/-- The thermal offset of a sensor, in 1/256 °C (R462). -/
def sensorOffset (cal : List Byte) (n : Nat) : Int := sint 16 (ofBytes ((cal.drop (64 + 2 * n)).take 2))

/-- A reading after calibration, in 1/64 °C. How an offset that is no multiple of 1/64 °C rounds is not stated. -/
def State.calibrated (s : State) (n : Nat) (raw : Int) : Int :=
  match s.sec.cal with
  | none => if n < 96 then raw + 64 * 5 else raw
  | some c =>
    let o := sensorOffset c n
    raw + o / 4 + (if o % 4 ≠ 0 then ((Config.freeValue (s.free + n)).toNat % 2 : Nat) else 0 : Int)

/-- The pending junction cap of a cluster after a sample (R490). -/
def nextCap (tj : Int) (cap : Nat) : Nat :=
  if 64 * 105 ≤ tj then max 6 (cap - 3) else if tj ≤ 64 * 100 then min 36 (cap + 1) else cap

/-- R489, R490: a sample of four sensors, and the pending cap of a cluster; cluster 24 stands for the sensors of the
control die. -/
def execJunctionSample (cluster : Nat) (t0 t1 t2 t3 : Int) (s : State) : Out :=
  if cluster > Config.clusters || !s.pins.clocks then .next s
  else
    let n := 4 * cluster
    let c := fun (k : Nat) (t : Int) => s.calibrated (n + k) t
    let a := c 0 t0
    let b := c 1 t1
    let d := c 2 t2
    let e := c 3 t3
    let x := Tab.set 0 (Tab.set 0 (Tab.set 0 (Tab.set 0 s.pwr.sensors n a) (n + 1) b) (n + 2) d) (n + 3) e
    let cap := nextCap (max (max a b) (max d e)) (Tab.get 36 s.pwr.caps cluster)
    let p : Power := { s.pwr with
      sensors := x, capsNext := if cluster = 24 then s.pwr.capsNext else Tab.set 36 s.pwr.capsNext cluster cap }
    let s : State := { s with pwr := p, free := s.free + 100 }
    .next (s.syncSensor (if cluster = 24 then 4 else if cluster < 12 then 2 else 3))

/-! ### The governor (R493 to R496) -/

/-- PENDING from LEVEL and PE, the mean of the samples `pe` (R494). -/
def nextLevel (level limit top : Nat) (pe : List Nat) : Nat :=
  let n := pe.length
  let sum := pe.foldl (· + ·) 0
  let p := if n = 0 then level
    else if limit * n < sum then level - (sum - limit * n + 60 * n - 1) / (60 * n)
    else if sum < (limit - 150) * n then level + 1
    else level
  max 6 (min top p)

/-- R493, R494: a sample of package power. -/
def execGovernorSample (watts : Nat) (s : State) : Out :=
  if !s.pins.clocks then .next s
  else
    let pe := (watts :: s.pwr.pe).take 100
    let p : Power := { s.pwr with
      pe := pe, p10 := (watts :: s.pwr.p10).take 1000
      pendingLevel := nextLevel s.pwr.level (s.regF (wMBX + 0x100) 11 0) (s.regF (wMBX + 0x100) 29 24) pe }
    .next (({ s with pwr := p } : State).syncSensor 1)

/-- A pending level or junction cap stands below its current value (R496). -/
def Power.falling (p : Power) : Bool :=
  decide (p.pendingLevel < p.level) ||
    (List.range Config.clusters).any fun n => decide (Tab.get 36 p.capsNext n < Tab.get 36 p.caps n)

/-- R496, R498: hold engages. -/
def execHold (s : State) : Out :=
  if !s.pins.clocks || !s.pwr.falling then .next s
  else .next (({ s with pwr := { s.pwr with hold := true } } : State).orReg (wMBX + 0x108) (fmask 62 62))

/-! ### The test port (R481) -/

/-- The lands that the device drives, in the order of their boundary cells (R474, R475): those of R475 first. -/
def drivenLands : List String :=
  ["READY_N", "ALERT_N", "THERMTRIP_N", "EPOCH_OUT", "FAULT_N", "XSPI_RESET_N", "XSPI_CLK", "XSPI_CS_N", "XSPI_DQ0", "XSPI_DQ1",
   "XSPI_DQ2", "XSPI_DQ3", "XSPI_DQ4", "XSPI_DQ5", "XSPI_DQ6", "XSPI_DQ7", "I3C_SDA", "TDO"]

/-- The other lands of the boundary register: every one of R474 but the clocks, TIMEREF and the sense lands (R481). -/
def inputLands : List String :=
  ["PERST#", "PWRGOOD", "RECOVERY_N", "I3C_SA0", "I3C_SA1", "EPOCH_IN", "I3C_SCL", "XSPI_DQS", "TMS", "TDI", "TRST_N"]

/-- EXTEST, HIGHZ and CLAMP take effect only while PERST# is asserted (R481). -/
def State.jtagActs (s : State) : Bool := !s.pins.perstHigh

/-- XSPI_RESET_N is low at the start of a boot; every XSPI land is high-impedance without power (R479, R485). -/
def State.xspiResetN (s : State) : Drive :=
  if !s.running then .released else if s.tb.now < s.pins.xspiUntil then .low else .high

/-- What the device drives onto a land of `drivenLands`; none where it follows a transfer, which is not held. -/
def State.ownDrive (s : State) (i : Nat) : Option Drive :=
  match i with
  | 0 => some s.pins.readyN
  | 1 => some s.pins.alertN
  | 2 => some s.pins.thermtripN
  | 3 => some s.pins.epochOut
  | 4 => some s.pins.faultN
  | 5 => some s.xspiResetN
  | _ => if s.running then none else some .released

/-- What the boundary register drives on land `i`: an open-drain output drives no high level (R474). -/
def Jtag.cell (j : Jtag) (i : Nat) : Drive :=
  match j.boundary[i]? with
  | some true => if i < 4 ∨ i = 16 then .released else .high
  | some false => .low
  | none => .released

/-- What land `i` of `drivenLands` carries. -/
def State.landDrive (s : State) (i : Nat) : Option Drive :=
  if !s.jtagActs then s.ownDrive i
  else if s.jtag.op = .highz then some .released
  else if s.jtag.op = .extest ∨ s.jtag.op = .clamp then some (s.jtag.cell i)
  else s.ownDrive i

/-- The level of land `i` of `drivenLands`: where it is released, that of the resistor of R476; `open'` where the manual
gives none. -/
def State.landLevel (s : State) (open' : Bool) (i : Nat) : Bool :=
  match s.landDrive i with
  | some .low => false
  | some .high => true
  | some .released => if i < 4 then true else if i = 4 then false else open'
  | none => open'

/-- The levels that SAMPLE captures; those that nothing of the state gives are free. -/
def State.lands (s : State) : List Bool :=
  let open' := fun (i : Nat) => (Config.freeValue s.free).toNat.testBit i
  (List.range drivenLands.length).map (fun i => s.landLevel (open' i) i) ++
    [s.pins.perstHigh, s.pins.pwrgood, s.pins.recoveryN, s.pins.sa0, s.pins.sa1] ++ (List.range 6).map fun i => open' (32 + i)

/-- The registers of the test port between TDI and TDO. -/
inductive TestReg where
  | bypass | idcode | boundary
deriving DecidableEq, Repr

/-- The register that the instruction selects: EXTEST, HIGHZ and CLAMP act as BYPASS while PERST# is high (R481). -/
def State.testReg (s : State) : TestReg :=
  match s.jtag.op with
  | .bypass => .bypass
  | .idcode => .idcode
  | .sample => .boundary
  | .extest => if s.jtagActs then .boundary else .bypass
  | .highz => .bypass
  | .clamp => .bypass

/-- An instruction of the port that takes effect while PERST# is asserted, and is BYPASS otherwise (R481). -/
def State.testOp (s : State) (op : JtagOp) (j : Jtag) : Jtag := { j with op := op, dr := if s.jtagActs then j.dr else 0 }

/-- The test port works while PWRGOOD is high (R481). -/
def State.jtagDo (s : State) (f : Jtag → Jtag) : State := if s.pins.pwrgood then { s with jtag := f s.jtag } else s

/-- IDCODE (R481). -/
def idcodeWord : W32 := BitVec.ofNat 32 (0x0960 * 4096 + Config.manufacturer.toNat * 2 + 1)

def execBypass (s : State) : Out := .next (s.jtagDo fun j => { j with op := .bypass, dr := 0 })
def execIdcode (s : State) : Out := .next (s.jtagDo fun j => { j with op := .idcode, dr := idcodeWord })

/-- SAMPLE captures the lands, PRELOAD loads the boundary register. -/
def execSamplePreload (preload : List Bool) (s : State) : Out :=
  .next (if s.pins.pwrgood then (s.jtagDo fun j => { j with op := .sample, sample := s.lands, boundary := preload }).draw else s)

def execExtest (s : State) : Out := .next (s.jtagDo fun j => s.testOp .extest j)
def execHighz (s : State) : Out := .next (s.jtagDo fun j => s.testOp .highz j)
def execClamp (s : State) : Out := .next (s.jtagDo fun j => s.testOp .clamp j)

end Sys2Proof.Machine
end

