-- ==== Sys2Proof/Machine/Remap.lean ====
section
/-! DEFINITION. The end of a row's copy to a spare (R308), which accesses of every agent wait for. -/

namespace Sys2Proof.Machine

/-- R308: the copy of a row to a spare ends. `failed` spares failed during it, and the copy moved on; the
columns `bad` failed both reads and are written as poisoned. With no spare left, the frame is retired (R309). -/
def execRemapComplete (stack pch bank failed : Nat) (bad : List Nat) (s : State) : Out :=
  match s.mem.copying.find? fun c => c.row.stack == stack && c.row.pch == pch && c.row.bank == bank with
  | none => .next s
  | some c => .next (s.endCopy c failed bad).flushHome

end Sys2Proof.Machine
end

