-- ==== Sys2Proof/Machine/VectorMisc.lean ====
section
/-! DEFINITION. Length, reductions, dot products, softmax, masks and scalars of the vector unit: major 0x2F
(R126, R147, R67 to R75). -/

namespace Sys2Proof.Machine

/-! ### vstrip (R126) -/

/-- Under its new group, VL and the remaining count. -/
def vstripBody (n : Nat) (F : Form) (s : State) : Res :=
  match (if F.b ≥ 8 ∨ F.k ≠ 0 ∨ F.func % 16 = 1 then none else fmtOf (F.func % 16)) with
  | none => illegal F s
  | some f =>
    .ok (s.updCore n fun c =>
      let c := if F.b ≥ 4 then c.setCr nVCTRL (W64.setFld (c.cr nVCTRL) 5 4 (F.b % 4)) else c
      let count := (c.arch.rg F.a).toNat
      let vl := min count (vlMax c.group f.regW)
      let c := c.setVl vl
      { c with arch := (c.arch.setG F.d (BitVec.ofNat 64 vl)).setG F.a (BitVec.ofNat 64 (count - vl)) })

def execVstrip (x : Ctx) (f : RF) (s : State) : Out :=
  let F := formR 0x2F f
  .next (runForm x F (codeG F.a) (codeG F.d ++ codeG F.a) s fun s => vstripBody x.core F s)

/-! ### Reductions (R73, R74) -/

/-- Formats of the reductions and of vbcastf and vext. -/
def redFmts : List Nat := [0x0, 0x2, 0x3, 0x4, 0xB, 0xC, 0xD]

/-- Values of the positions of an operand; an inactive one stands as +0. -/
def Shape.values (h : Shape) (f : Fmt) (r : Arch) (a : VOp) : List XVal :=
  (List.range h.n).map fun i => if h.act i then f.value (r.el a i) else posZero

/-- Run a reduction of the elements of v[a] into element 0 of v[d], of width `wd`. -/
def runReduce (x : Ctx) (F : Form) (fm : Option Fmt) (wd : Fmt → Nat) (res : Fmt → Shape → VOp → Arch → Nat × Flags)
    (s : State) : State :=
  match fm with
  | none => runForm x F [] [] s fun s => illegal F s
  | some f =>
    let w := f.regW
    let h := (s.core x.core).shape w F.k
    let a := vop h.g w F.a w
    let d := vone F.d (wd f)
    runForm x F (a.codes ++ codeVs F.b 1 ++ codeK F.k) [] s fun s =>
      if badOps d [a] then illegal F s
      else
        let r := res f h a (s.core x.core).arch
        vecWrite s x.core d [(0, r.1, r.2)]

def execVredsum (x : Ctx) (f : RF) (s : State) : Out :=
  let F := formR 0x2F f
  .next (runReduce x F (fmtIn redFmts (F.func % 16)) (fun fm => (sumAcc fm).hold.width) (fun fm h a r =>
    let acc := sumAcc fm
    dotRef fm acc (r.el (vone F.b acc.hold.width) 0) (h.values fm r a) noScale) s)

/-- vredmax and vredmin; with no position the initial value stands, without a flag (R125, R71). -/
def redExtreme (x : Ctx) (F : Form) (isMax : Bool) (s : State) : State :=
  runReduce x F (fmtIn redFmts (F.func % 16)) Fmt.regW (fun fm h a r =>
    if h.n = 0 then (r.el (vone F.b fm.regW) 0, 0)
    else extreme fm isMax (r.el (vone F.b fm.regW) 0) (h.elems.map fun i => r.el a i)) s

def execVredmax (x : Ctx) (f : RF) (s : State) : Out := .next (redExtreme x (formR 0x2F f) true s)

def execVredmin (x : Ctx) (f : RF) (s : State) : Out := .next (redExtreme x (formR 0x2F f) false s)

/-! ### vdot (R67, R68) -/

/-- Input format and accumulator of a vdot (R147). -/
def dotFmts (F : Form) : Option (Fmt × Acc) :=
  let c := F.func % 16
  if F.func / 16 = 5 then (if c = 2 then some (.f32, .f64) else none)
  else match fmtIn [0x0, 0x2, 0x3, 0x4, 0x5, 0x6, 0x7, 0x8, 0x9, 0xC, 0xD, 0xE] c with
    | none => none
    | some f => some (f, if f.isInt then .i32 else if f = .f64 then .f64 else .f32)

def execVdot (x : Ctx) (f : RF) (s : State) : Out :=
  let F := formR 0x2F f
  .next (match dotFmts F with
    | none => runForm x F [] [] s fun s => illegal F s
    | some (fi, fa) =>
      let w := fi.regW
      let h := (s.core x.core).shape w F.k
      let a := vop h.g w F.a w
      let b := vop h.g w F.b w
      let d := vone F.d fa.hold.width
      runForm x F (a.codes ++ b.codes ++ d.codes ++ codeK F.k) [] s fun s =>
        if badOps d [a, b] then illegal F s
        else
          let r := (s.core x.core).arch
          let ps := (List.range h.n).map fun i =>
            if h.act i then ((fi.value (r.el a i)).mul (fi.value (r.el b i))).1 else posZero
          let v := dotRef fi fa (r.el d 0) ps noScale
          vecWrite s x.core d [(0, v.1, v.2)])

/-! ### vsmax (R75) -/

/-- The working format of a softmax, and its accumulator. -/
def smaxWork : Fmt → Fmt × Acc
  | .f64 => (.f64, .f64)
  | _ => (.f32, .f32)

/-- A row of a softmax: encodings with their activity. -/
def smaxRow (f : Fmt) (row : List (Nat × Bool)) : List Nat × Flags :=
  let act := (row.filter fun p => p.2).map fun p => f.value p.1
  if act.any XVal.isNan then (row.map fun _ => f.nan, flagNV)
  else if act.all fun v => v == .inf true then (row.map fun _ => 0, flagEmpty)
  else
    let tops := (act.filter fun v => v == .inf false).length
    if tops ≠ 0 then
      let q := (XVal.fin false 1 0).div (f.prec + 2) (.fin false tops 0)
      let y := f.convert q.1 false .rne false
      (row.map fun p => if p.2 ∧ f.value p.1 = .inf false then y.1 else 0, y.2)
    else
      let wf := smaxWork f
      let m := act.foldl (fun (m : XVal) v => if m.lt v then v else m) (.inf true)
      let es := row.map fun p => if p.2 then expX wf.1 ((f.value p.1).add false m.neg).1 else (0, 0)
      let sum := dotRef wf.1 wf.2 0 (es.map fun e => wf.1.value e.1) noScale
      let sv := wf.1.value sum.1
      let ys := (row.zip es).map fun p =>
        if p.1.2 then finish f .rne false ((wf.1.value p.2.1).div (f.prec + 2) sv) else (0, 0)
      (ys.map fun y => y.1,
        (es ++ ys).foldl (fun (fl : Flags) e => fl ||| e.2) sum.2)

def execVsmax (x : Ctx) (f : RF) (s : State) : Out :=
  let F := formR 0x2F f
  .next (match fmtIn [0x0, 0x2, 0x3, 0x4] (F.func % 16) with
    | none => runForm x F [] [] s fun s => illegal F s
    | some fm =>
      let w := fm.regW
      let h := (s.core x.core).shape w F.k
      let a := vop h.g w F.a w
      let d := vop h.g w F.d w
      runForm x F (a.codes ++ codeK F.k) (d.whole h.n true) s fun s =>
        if badOps d [a] then illegal F s
        else
          let r := (s.core x.core).arch
          let y := smaxRow fm ((List.range h.n).map fun i => (r.el a i, h.act i))
          withFlags s x.core y.2 fun s =>
            .ok (s.updCore x.core fun c =>
              { c with arch := c.arch.putEls d ((List.range h.n).zip y.1) }))

/-! ### Masks (R147) -/

/-- Bits [4:3] of a mask field must be 0. -/
def badMasks (ks : List Nat) : Bool := ks.any fun k => decide (k ≥ 8)

/-- A mask operation on whole mask registers. -/
def maskOp (x : Ctx) (f : RF) (srcs : Form → List Nat) (v : Arch → Form → KReg) (s : State) : State :=
  let F := formR 0x2F f
  runForm x F ((srcs F).map codeK).flatten (codeK F.d) s fun s =>
    if F.func % 16 ≠ 0 ∨ badMasks (F.d :: srcs F) then illegal F s
    else .ok (s.updCore x.core fun c => { c with arch := c.arch.setK F.d (v c.arch F) })

def execKand (x : Ctx) (f : RF) (s : State) : Out :=
  .next (maskOp x f (fun F => [F.a, F.b]) (fun r F => r.rk F.a &&& r.rk F.b) s)

def execKor (x : Ctx) (f : RF) (s : State) : Out :=
  .next (maskOp x f (fun F => [F.a, F.b]) (fun r F => r.rk F.a ||| r.rk F.b) s)

def execKxor (x : Ctx) (f : RF) (s : State) : Out :=
  .next (maskOp x f (fun F => [F.a, F.b]) (fun r F => r.rk F.a ^^^ r.rk F.b) s)

def execKnot (x : Ctx) (f : RF) (s : State) : Out :=
  .next (maskOp x f (fun F => [F.a]) (fun r F => ~~~(r.rk F.a)) s)

/-- The ones among bits 0 to VL − 1. -/
def execKpop (x : Ctx) (f : RF) (s : State) : Out :=
  let F := formR 0x2F f
  .next (runForm x F (codeK F.a) (codeG F.d) s fun s =>
    let c := s.core x.core
    if F.func % 16 ≠ 0 ∨ badMasks [F.a] then illegal F s
    else
      let v := BitVec.ofNat 64 (popCount c.vl (c.arch.rk F.a).toNat)
      .ok (s.updCore x.core fun c => { c with arch := c.arch.setG F.d v }))

/-- k[d] = 1 KiB at g[a]. -/
def execKld (x : Ctx) (f : RF) (s : State) : Out :=
  let F := formR 0x2F f
  .next (runForm x F (codeG F.a) (codeK F.d) s fun s =>
    let c := s.core x.core
    if F.func % 16 ≠ 0 ∨ badMasks [F.d] then illegal F s
    else match s.load x.core c.pl x.up ⟨true, true, false⟩ (c.arch.rg F.a).toNat 1024 with
      | (.ok s bs, _) =>
        .ok (s.updCore x.core fun c => { c with arch := c.arch.setK F.d (BitVec.ofNat 8192 (ofBytes bs)) })
      | (.trap s k t, _) => .trap s k t
      | (.wait s w, _) => .wait s w)

/-- 1 KiB at g[a] = k[d]. -/
def execKst (x : Ctx) (f : RF) (s : State) : Out :=
  let F := formR 0x2F f
  .next (runForm x F (codeG F.a ++ codeK F.d) [] s fun s =>
    let c := s.core x.core
    if F.func % 16 ≠ 0 ∨ badMasks [F.d] then illegal F s
    else match s.store x.core (c.arch.rg F.a).toNat (bytesOf 1024 (c.arch.rk F.d).toNat) StHow.plain true with
      | .ok s => .ok s
      | .trap s k t => .trap s k t
      | .wait s w => .wait s w)

/-! ### Scalars (R147) -/

/-- Active elements of v[d] = f[a], rounded by R50, or the low bits of g[a]. -/
def execVbcastf (x : Ctx) (f : RF) (s : State) : Out :=
  let F := formR 0x2F f
  .next (match fmtIn redFmts (F.func % 16) with
    | none => runForm x F [] [] s fun s => illegal F s
    | some fm =>
      let w := fm.regW
      let h := (s.core x.core).shape w F.k
      let d := vop h.g w F.d w
      runForm x F ((if fm.isInt then codeG F.a else codeF F.a) ++ codeK F.k) (d.whole h.n h.all) s fun s =>
        if d.odd then illegal F s
        else
          let c := s.core x.core
          let v := if fm.isInt then ((c.arch.rg F.a).toNat % 2 ^ w, 0)
            else if fm = .f64 then ((c.arch.rf F.a).toNat, 0)
            else convertEnc .f64 fm (c.arch.rf F.a).toNat (c.rndFor fm) c.nosat
          vecWrite s x.core d (h.elems.map fun i => (i, v.1, v.2)))

/-- f[d] or g[d] = element g[b] mod VLMAX of v[a]. -/
def execVext (x : Ctx) (f : RF) (s : State) : Out :=
  let F := formR 0x2F f
  .next (match fmtIn redFmts (F.func % 16) with
    | none => runForm x F [] [] s fun s => illegal F s
    | some fm =>
      let w := fm.regW
      let g := (s.core x.core).group
      let a := vop g w F.a w
      runForm x F (codeG F.b ++ a.codes) (if fm.isInt then codeG F.d else codeF F.d) s fun s =>
        if a.odd then illegal F s
        else
          let r := (s.core x.core).arch
          let e := r.el a ((r.rg F.b).toNat % vlMax g w)
          .ok (s.updCore x.core fun c =>
            { c with arch := if fm.isInt then c.arch.setG F.d (BitVec.ofInt 64 (sint w e))
                             else c.arch.setF F.d (BitVec.ofNat 64 (widenBits fm .f64 e)) }))

end Sys2Proof.Machine
end

