-- ==== Sys2Proof/Machine/Dispatch.lean ====
section
/-! DEFINITION. One arm for each command. -/

namespace Sys2Proof.Machine

def exec (i : Instr) (s : State) : Host.Outcome State Fault Refusal :=
  match i with
  | .registerWrite reg size val => Sys2Proof.Machine.execRegisterWrite reg size val s
  | .rcRead reg size ev => Sys2Proof.Machine.execRcRead reg size ev s
  | .integerOps x f => Sys2Proof.Machine.execIntegerOps x f s
  | .addi x f => Sys2Proof.Machine.execAddi x f s
  | .andi x f => Sys2Proof.Machine.execAndi x f s
  | .ori x f => Sys2Proof.Machine.execOri x f s
  | .xori x f => Sys2Proof.Machine.execXori x f s
  | .slti x f => Sys2Proof.Machine.execSlti x f s
  | .lui x f => Sys2Proof.Machine.execLui x f s
  | .lhiL x f => Sys2Proof.Machine.execLhiL x f s
  | .scalarLoad x op f => Sys2Proof.Machine.execScalarLoad x op f s
  | .scalarStore x op f => Sys2Proof.Machine.execScalarStore x op f s
  | .flw x f => Sys2Proof.Machine.execFlw x f s
  | .fld x f => Sys2Proof.Machine.execFld x f s
  | .fsd x f => Sys2Proof.Machine.execFsd x f s
  | .fsw x f => Sys2Proof.Machine.execFsw x f s
  | .fll x f => Sys2Proof.Machine.execFll x f s
  | .fsl x f => Sys2Proof.Machine.execFsl x f s
  | .branch x op f => Sys2Proof.Machine.execBranch x op f s
  | .jal x f => Sys2Proof.Machine.execJal x f s
  | .jalr x f => Sys2Proof.Machine.execJalr x f s
  | .fpOps x f => Sys2Proof.Machine.execFpOps x f s
  | .cregRd x f => Sys2Proof.Machine.execCregRd x f s
  | .cregWr x f => Sys2Proof.Machine.execCregWr x f s
  | .trapEnv x => Sys2Proof.Machine.execTrapEnv x s
  | .trapBp x => Sys2Proof.Machine.execTrapBp x s
  | .rtx x => Sys2Proof.Machine.execRtx x s
  | .fence x => Sys2Proof.Machine.execFence x s
  | .fenceE x => Sys2Proof.Machine.execFenceE x s
  | .atomics x f => Sys2Proof.Machine.execAtomics x f s
  | .illegalInstruction x w0 w1 => Sys2Proof.Machine.execIllegalInstruction x w0 w1 s
  | .wedged core => Sys2Proof.Machine.execWedged core s
  | .asyncDelivery core => Sys2Proof.Machine.execAsyncDelivery core s
  | .storeDrain core idx bad => Sys2Proof.Machine.execStoreDrain core idx bad s
  | .lateStoreError core idx => Sys2Proof.Machine.execLateStoreError core idx s
  | .fset x a => Sys2Proof.Machine.execFset x a s
  | .lseClr x a => Sys2Proof.Machine.execLseClr x a s
  | .sorrelClr x a => Sys2Proof.Machine.execSorrelClr x a s
  | .ptbWrite x a => Sys2Proof.Machine.execPtbWrite x a s
  | .l1CtrlWrite x a => Sys2Proof.Machine.execL1CtrlWrite x a s
  | .missModeSwitch core => Sys2Proof.Machine.execMissModeSwitch core s
  | .floatingPointElementWise x f => Sys2Proof.Machine.execFloatingPointElementWise x f s
  | .vfun x f => Sys2Proof.Machine.execVfun x f s
  | .integerElementWise x f => Sys2Proof.Machine.execIntegerElementWise x f s
  | .vcvt x f => Sys2Proof.Machine.execVcvt x f s
  | .vcvtSr x f => Sys2Proof.Machine.execVcvtSr x f s
  | .vamaxMx x f => Sys2Proof.Machine.execVamaxMx x f s
  | .vamaxT x f => Sys2Proof.Machine.execVamaxT x f s
  | .vquant x f => Sys2Proof.Machine.execVquant x f s
  | .vscale x f => Sys2Proof.Machine.execVscale x f s
  | .floatingPointImmediate x f => Sys2Proof.Machine.execFloatingPointImmediate x f s
  | .integerImmediate x f => Sys2Proof.Machine.execIntegerImmediate x f s
  | .vld x f => Sys2Proof.Machine.execVld x f s
  | .vldff x f => Sys2Proof.Machine.execVldff x f s
  | .vst x f => Sys2Proof.Machine.execVst x f s
  | .vgat x f => Sys2Proof.Machine.execVgat x f s
  | .vsct x f => Sys2Proof.Machine.execVsct x f s
  | .vsget x f => Sys2Proof.Machine.execVsget x f s
  | .vsput x f => Sys2Proof.Machine.execVsput x f s
  | .vsfill x f => Sys2Proof.Machine.execVsfill x f s
  | .vtget x f => Sys2Proof.Machine.execVtget x f s
  | .vtput x f => Sys2Proof.Machine.execVtput x f s
  | .vstrip x f => Sys2Proof.Machine.execVstrip x f s
  | .vredsum x f => Sys2Proof.Machine.execVredsum x f s
  | .vredmax x f => Sys2Proof.Machine.execVredmax x f s
  | .vredmin x f => Sys2Proof.Machine.execVredmin x f s
  | .vdot x f => Sys2Proof.Machine.execVdot x f s
  | .vsmax x f => Sys2Proof.Machine.execVsmax x f s
  | .kand x f => Sys2Proof.Machine.execKand x f s
  | .kor x f => Sys2Proof.Machine.execKor x f s
  | .kxor x f => Sys2Proof.Machine.execKxor x f s
  | .knot x f => Sys2Proof.Machine.execKnot x f s
  | .kpop x f => Sys2Proof.Machine.execKpop x f s
  | .kld x f => Sys2Proof.Machine.execKld x f s
  | .kst x f => Sys2Proof.Machine.execKst x f s
  | .vbcastf x f => Sys2Proof.Machine.execVbcastf x f s
  | .vext x f => Sys2Proof.Machine.execVext x f s
  | .tload x f => Sys2Proof.Machine.execTload x f s
  | .tloadLf48 x f => Sys2Proof.Machine.execTloadLf48 x f s
  | .tstore x f => Sys2Proof.Machine.execTstore x f s
  | .tstoreLf48 x f => Sys2Proof.Machine.execTstoreLf48 x f s
  | .trel x f => Sys2Proof.Machine.execTrel x f s
  | .trelM x f => Sys2Proof.Machine.execTrelM x f s
  | .tcfg x f => Sys2Proof.Machine.execTcfg x f s
  | .tileOpSettle core => Sys2Proof.Machine.execTileOpSettle core s
  | .tmma x f => Sys2Proof.Machine.execTmma x f s
  | .tmmaX x f => Sys2Proof.Machine.execTmmaX x f s
  | .tmv x fi f => Sys2Proof.Machine.execTmv x fi f s
  | .tmvMx x fi f => Sys2Proof.Machine.execTmvMx x fi f s
  | .tmmaStart x => Sys2Proof.Machine.execTmmaStart x s
  | .engineRunEnd engine half up => Sys2Proof.Machine.execEngineRunEnd engine half up s
  | .replayStart cluster => Sys2Proof.Machine.execReplayStart cluster s
  | .verdictRecord => Sys2Proof.Machine.execVerdictRecord s
  | .engineSelftestEnd engine bad => Sys2Proof.Machine.execEngineSelftestEnd engine bad s
  | .ttakeRead x d => Sys2Proof.Machine.execTtakeRead x d s
  | .taskTake core => Sys2Proof.Machine.execTaskTake core s
  | .tdoneWrite x a => Sys2Proof.Machine.execTdoneWrite x a s
  | .taskEnd core => Sys2Proof.Machine.execTaskEnd core s
  | .remoteStoresSent version => Sys2Proof.Machine.execRemoteStoresSent version s
  | .cacheDead x f => Sys2Proof.Machine.execCacheDead x f s
  | .cachePf x f => Sys2Proof.Machine.execCachePf x f s
  | .cachePfLlc x f => Sys2Proof.Machine.execCachePfLlc x f s
  | .cacheIsync x f => Sys2Proof.Machine.execCacheIsync x f s
  | .tlbInv x f => Sys2Proof.Machine.execTlbInv x f s
  | .tlbInva x f => Sys2Proof.Machine.execTlbInva x f s
  | .lineFill core line up => Sys2Proof.Machine.execLineFill core line up s
  | .clean ch val => Sys2Proof.Machine.execClean ch val s
  | .inval ch val => Sys2Proof.Machine.execInval ch val s
  | .zero ch val => Sys2Proof.Machine.execZero ch val s
  | .unpin ch val => Sys2Proof.Machine.execUnpin ch val s
  | .prefetch ch val => Sys2Proof.Machine.execPrefetch ch val s
  | .abort ch val => Sys2Proof.Machine.execAbort ch val s
  | .swathLine ch line => Sys2Proof.Machine.execSwathLine ch line s
  | .swathComplete ch => Sys2Proof.Machine.execSwathComplete ch s
  | .stackRead sector first second => Sys2Proof.Machine.execStackRead sector first second s
  | .stackWrite line bad => Sys2Proof.Machine.execStackWrite line bad s
  | .remapComplete stack pch bank failed bad => Sys2Proof.Machine.execRemapComplete stack pch bank failed bad s
  | .refreshDue stack pch bank => Sys2Proof.Machine.execRefreshDue stack pch bank s
  | .refreshWindowEnd => Sys2Proof.Machine.execRefreshWindowEnd s
  | .stackTempSample stack temp => Sys2Proof.Machine.execStackTempSample stack temp s
  | .zoneStepTimeout stack => Sys2Proof.Machine.execZoneStepTimeout stack s
  | .overwriteComplete => Sys2Proof.Machine.execOverwriteComplete s
  | .epochIn => Sys2Proof.Machine.execEpochIn s
  | .timeArrival => Sys2Proof.Machine.execTimeArrival s
  | .periodReached => Sys2Proof.Machine.execPeriodReached s
  | .tolExpiry => Sys2Proof.Machine.execTolExpiry s
  | .slotFire slot => Sys2Proof.Machine.execSlotFire slot s
  | .timerefLost => Sys2Proof.Machine.execTimerefLost s
  | .pllLock => Sys2Proof.Machine.execPllLock s
  | .runStart val => Sys2Proof.Machine.execRunStart val s
  | .runStop val => Sys2Proof.Machine.execRunStop val s
  | .slotArm slot val => Sys2Proof.Machine.execSlotArm slot val s
  | .rd port p => Sys2Proof.Machine.execRd port p s
  | .rdr port p => Sys2Proof.Machine.execRdr port p s
  | .wr port p => Sys2Proof.Machine.execWr port p s
  | .wra port p => Sys2Proof.Machine.execWra port p s
  | .atm port p => Sys2Proof.Machine.execAtm port p s
  | .atr port p => Sys2Proof.Machine.execAtr port p s
  | .col port p => Sys2Proof.Machine.execCol port p s
  | .time port p inside => Sys2Proof.Machine.execTime port p inside s
  | .packetForward port p => Sys2Proof.Machine.execPacketForward port p s
  | .trackerTimeout tag => Sys2Proof.Machine.execTrackerTimeout tag s
  | .filterExpiry src tag => Sys2Proof.Machine.execFilterExpiry src tag s
  | .flit port head good => Sys2Proof.Machine.execFlit port head good s
  | .linkGiveUp port => Sys2Proof.Machine.execLinkGiveUp port s
  | .portUp port peer => Sys2Proof.Machine.execPortUp port peer s
  | .retrain port val => Sys2Proof.Machine.execRetrain port val s
  | .pelEnable val => Sys2Proof.Machine.execPelEnable val s
  | .pelDisable val => Sys2Proof.Machine.execPelDisable val s
  | .pelCacheDisable val => Sys2Proof.Machine.execPelCacheDisable val s
  | .collectiveRead phase => Sys2Proof.Machine.execCollectiveRead phase s
  | .collectiveComplete phase => Sys2Proof.Machine.execCollectiveComplete phase s
  | .collectiveDeadline phase => Sys2Proof.Machine.execCollectiveDeadline phase s
  | .mailboxPost mb val => Sys2Proof.Machine.execMailboxPost mb val s
  | .mailboxAccept => Sys2Proof.Machine.execMailboxAccept s
  | .mailboxFree mb val => Sys2Proof.Machine.execMailboxFree mb val s
  | .commandComplete mb => Sys2Proof.Machine.execCommandComplete mb s
  | .attach mb => Sys2Proof.Machine.execAttach mb s
  | .submit mb => Sys2Proof.Machine.execSubmit mb s
  | .sheafAdd mb => Sys2Proof.Machine.execSheafAdd mb s
  | .sheafSet mb => Sys2Proof.Machine.execSheafSet mb s
  | .sheafRead mb => Sys2Proof.Machine.execSheafRead mb s
  | .verdict mb => Sys2Proof.Machine.execVerdict mb s
  | .stepWrite mb => Sys2Proof.Machine.execStepWrite mb s
  | .coreMsg mb => Sys2Proof.Machine.execCoreMsg mb s
  | .fabricCfg mb => Sys2Proof.Machine.execFabricCfg mb s
  | .memAffinity mb => Sys2Proof.Machine.execMemAffinity mb s
  | .retiredList mb => Sys2Proof.Machine.execRetiredList mb s
  | .faultRead mb => Sys2Proof.Machine.execFaultRead mb s
  | .selftest mb => Sys2Proof.Machine.execSelftest mb s
  | .selftestComplete isCore unit bad coreFails => Sys2Proof.Machine.execSelftestComplete isCore unit bad coreFails s
  | .coreReset mb => Sys2Proof.Machine.execCoreReset mb s
  | .perCoreReset core => Sys2Proof.Machine.execPerCoreReset core s
  | .coreRelease core entry => Sys2Proof.Machine.execCoreRelease core entry s
  | .memRetrain mb failed => Sys2Proof.Machine.execMemRetrain mb failed s
  | .calibrate mb failed measured => Sys2Proof.Machine.execCalibrate mb failed measured s
  | .calRead mb => Sys2Proof.Machine.execCalRead mb s
  | .calWrite mb => Sys2Proof.Machine.execCalWrite mb s
  | .deviceReset mb => Sys2Proof.Machine.execDeviceReset mb s
  | .lcSet mb => Sys2Proof.Machine.execLcSet mb s
  | .spdm mb => Sys2Proof.Machine.execSpdm mb s
  | .task => Sys2Proof.Machine.execTask s
  | .barrier => Sys2Proof.Machine.execBarrier s
  | .barrierDeadline => Sys2Proof.Machine.execBarrierDeadline s
  | .waitEpoch => Sys2Proof.Machine.execWaitEpoch s
  | .specBegin => Sys2Proof.Machine.execSpecBegin s
  | .specEnd => Sys2Proof.Machine.execSpecEnd s
  | .fenceRecord => Sys2Proof.Machine.execFenceRecord s
  | .copy => Sys2Proof.Machine.execCopy s
  | .fill => Sys2Proof.Machine.execFill s
  | .mark => Sys2Proof.Machine.execMark s
  | .copyComplete id => Sys2Proof.Machine.execCopyComplete id s
  | .checkpointCopy idx => Sys2Proof.Machine.execCheckpointCopy idx s
  | .checkpointComplete idx => Sys2Proof.Machine.execCheckpointComplete idx s
  | .msixHoldoff vector => Sys2Proof.Machine.execMsixHoldoff vector s
  | .bar2Read off size => Sys2Proof.Machine.execBar2Read off size s
  | .bar2Write off bytes ep => Sys2Proof.Machine.execBar2Write off bytes ep s
  | .functionReset kind => Sys2Proof.Machine.execFunctionReset kind s
  | .controlProcessorStall processor => Sys2Proof.Machine.execControlProcessorStall processor s
  | .linkFailure link => Sys2Proof.Machine.execLinkFailure link s
  | .getPdr record => Sys2Proof.Machine.execGetPdr record s
  | .getSensorReading sensor => Sys2Proof.Machine.execGetSensorReading sensor s
  | .setEventReceiver async => Sys2Proof.Machine.execSetEventReceiver async s
  | .platformEventMessage => Sys2Proof.Machine.execPlatformEventMessage s
  | .pollForPlatformEventMessage ack => Sys2Proof.Machine.execPollForPlatformEventMessage ack s
  | .pldmType0 command => Sys2Proof.Machine.execPldmType0 command s
  | .requestUpdate c => Sys2Proof.Machine.execRequestUpdate c s
  | .passComponentTable c => Sys2Proof.Machine.execPassComponentTable c s
  | .updateComponent c size => Sys2Proof.Machine.execUpdateComponent c size s
  | .requestFirmwareData off bytes => Sys2Proof.Machine.execRequestFirmwareData off bytes s
  | .transferComplete => Sys2Proof.Machine.execTransferComplete s
  | .verifyComplete => Sys2Proof.Machine.execVerifyComplete s
  | .applyComplete => Sys2Proof.Machine.execApplyComplete s
  | .activateFirmware => Sys2Proof.Machine.execActivateFirmware s
  | .cancelUpdate => Sys2Proof.Machine.execCancelUpdate s
  | .getStatus => Sys2Proof.Machine.execGetStatus s
  | .getVersion t => Sys2Proof.Machine.execGetVersion t s
  | .getCapabilities t => Sys2Proof.Machine.execGetCapabilities t s
  | .negotiateAlgorithms t => Sys2Proof.Machine.execNegotiateAlgorithms t s
  | .getDigests t => Sys2Proof.Machine.execGetDigests t s
  | .getCertificate t slot off len => Sys2Proof.Machine.execGetCertificate t slot off len s
  | .challenge t slot nonce => Sys2Proof.Machine.execChallenge t slot nonce s
  | .getMeasurements t idx signed nonce => Sys2Proof.Machine.execGetMeasurements t idx signed nonce s
  | .setdasa stat dyn => Sys2Proof.Machine.execSetdasa stat dyn s
  | .entdaa dyn => Sys2Proof.Machine.execEntdaa dyn s
  | .coldReset => Sys2Proof.Machine.execColdReset s
  | .warmReset => Sys2Proof.Machine.execWarmReset s
  | .firmwareStart => Sys2Proof.Machine.execFirmwareStart s
  | .bootReady => Sys2Proof.Machine.execBootReady s
  | .recWrite flashError => Sys2Proof.Machine.execRecWrite flashError s
  | .recCommit flashError => Sys2Proof.Machine.execRecCommit flashError s
  | .powerLoss why => Sys2Proof.Machine.execPowerLoss why s
  | .thermalTrip => Sys2Proof.Machine.execThermalTrip s
  | .junctionSample cluster t0 t1 t2 t3 => Sys2Proof.Machine.execJunctionSample cluster t0 t1 t2 t3 s
  | .governorSample watts => Sys2Proof.Machine.execGovernorSample watts s
  | .hold => Sys2Proof.Machine.execHold s
  | .bypass => Sys2Proof.Machine.execBypass s
  | .idcode => Sys2Proof.Machine.execIdcode s
  | .samplePreload preload => Sys2Proof.Machine.execSamplePreload preload s
  | .extest => Sys2Proof.Machine.execExtest s
  | .highz => Sys2Proof.Machine.execHighz s
  | .clamp => Sys2Proof.Machine.execClamp s
  | .perfClr t => Sys2Proof.Machine.execPerfClr t s
  | .perstDeassertion => Sys2Proof.Machine.execPerstDeassertion s
  | .deferredImageBoot => Sys2Proof.Machine.execDeferredImageBoot s
  | .epochOutRelease => Sys2Proof.Machine.execEpochOutRelease s
  | .inBandInterruptEnable on => Sys2Proof.Machine.execInBandInterruptEnable on s

end Sys2Proof.Machine
end

