-- ==== Sys2Proof/Machine/Ticks.lean ====
section
/-! DEFINITION. What passes at a tick that no command fills. -/

namespace Sys2Proof.Machine

/-- The overwrite goes on by as many MiB as no rule says (R311, log entry 10). -/
def State.wipeTick (s : State) : State :=
  if s.mem.served && s.mem.wiping && s.pins.clocks then
    let left := 0x180000 - s.mem.wipeDone
    let k := (Config.freeValue s.free).toNat % (max 1 left)
    ({ s with mem := { s.mem with wipeDone := s.mem.wipeDone + k } } : State).draw
  else s

/-- Tags come free by age (R336): what waits for a tracker is tried again. -/
def State.retryTick (s : State) : State := if s.pins.clocks then s.afterTracker else s

/-- One tick of 4 ns (R316) with what the timebase does in it: slots, boundaries, the end of TOL (R318, R326). -/
def tick (s : State) : State := s.oneTick.wipeTick.retryTick

end Sys2Proof.Machine
end

