-- ==== Sys2Proof/Safety.lean ====
section
/-! DEFINITION. What counts as a safe step, and the terms in which the claims are written. -/

namespace Sys2Proof

/-- A step is safe when the block goes on. -/
def Safe (o : Host.Outcome Machine.State Machine.Fault Machine.Refusal) : Prop := ∃ t, o = .next t

namespace Machine

/-- A command ends in a next state of which `P` holds. -/
def Completes (i : Instr) (s : State) (P : State → Prop) : Prop := ∃ t, exec i s = .next t ∧ P t

/-- A command leaves the state as it is. -/
def Leaves (i : Instr) (s : State) : Prop := exec i s = .next s

/-- Nothing but core `n` and the model's own counter of free values differs, and no other core. -/
def OnlyCore (s t : State) (n : Nat) : Prop :=
  t = { s with cores := t.cores, free := t.free } ∧ ∀ m, m ≠ n → t.core m = s.core m

/-- Every byte of memory reads as before. -/
def SameBytes (s t : State) : Prop := ∀ a, t.byte a = s.byte a

/-! ### Registers of a core -/

/-- Registers that an instruction may change; the event counters 0x510 to 0x517 and 0x521 may always count. -/
structure RegSet where
  g : List Nat := []
  f : List Nat := []
  v : List Nat := []
  k : List Nat := []
  creg : List Nat := []
  rows : List Nat := []
  tiles : List Nat := []

/-- Whether a core register counts events (R502, R503). -/
def isCounter (c : Nat) : Prop := (0x510 ≤ c ∧ c ≤ 0x517) ∨ c = 0x521

/-- Every register outside a set holds what it held. -/
structure RegsKept (a b : Arch) (p : RegSet) : Prop where
  g : ∀ r, r ∉ p.g → b.rg r = a.rg r
  f : ∀ r, r ∉ p.f → b.rf r = a.rf r
  v : ∀ r, r ∉ p.v → b.rv r = a.rv r
  k : ∀ r, r ∉ p.k → b.rk r = a.rk r
  creg : ∀ c, c ∉ p.creg → ¬ isCounter c → b.cr c = a.cr c
  rows : ∀ r, r ∉ p.rows → Tab.get none b.sorrel r = Tab.get none a.sorrel r
  tiles : ∀ t, t ∉ p.tiles → b.tile t = a.tile t

/-- Every other core keeps its registers and its pc; its event counters may count. -/
def OthersKept (s t : State) (n : Nat) : Prop :=
  ∀ m, m ≠ n → (t.core m).arch.pc = (s.core m).arch.pc ∧ RegsKept (s.core m).arch (t.core m).arch {}

/-! ### Issue -/

/-- Core `n` stands before an instruction of `len` bytes and can begin it: it runs, no asynchronous cause comes
first, none of its tile operations is unsettled, its registers hold good parity, and the instruction lies in visible
memory free of poison, with translation off. -/
structure Issues (s : State) (n len : Nat) : Prop where
  core : n < Config.cores
  runs : (s.core n).runs = true
  noAsync : s.asyncDue n = false
  noTops : (s.core n).tops = []
  parity : (s.core n).parity = []
  untranslated : (s.core n).pl = 3 ∨ ((s.core n).cr nPTB).toNat.testBit 0 = false
  aligned : (s.core n).arch.pc.toNat % 4 = 0
  inMemory : (s.core n).arch.pc.toNat + len ≤ Config.memTop
  first : s.poisoned ((s.core n).arch.pc.toNat / 32) = false
  last : s.poisoned (((s.core n).arch.pc.toNat + len - 4) / 32) = false

/-- The instruction at core `n` has completed with the pc at `pc`: only the core's registers may differ. -/
structure Retires (s t : State) (n : Nat) (pc : W64) : Prop where
  only : OnlyCore s t n
  core : t.core n = { s.core n with arch := (t.core n).arch, wait := .none, remote := [] }
  pc : (t.core n).arch.pc = pc

/-- As `Retires`, where the instruction may touch caches, miss registers and the store buffer too: no byte of
memory differs, and every other core keeps its registers. -/
structure Passes (s t : State) (n : Nat) (pc : W64) : Prop where
  bytes : SameBytes s t
  others : OthersKept s t n
  wait : (t.core n).wait = .none
  pc : (t.core n).arch.pc = pc

/-- The pc after an instruction of `len` bytes. -/
def State.pcAfter (s : State) (n len : Nat) : W64 := (s.core n).arch.pc + BitVec.ofNat 64 len

/-- No raise of a flag by core `n` counts for a watched version (R242). -/
def Unwatched (s : State) (n : Nat) : Prop :=
  (s.core n).pl = 3 ∨ ∀ t, (s.core n).task = some t → t.q.d.watch = false

/-- Flags that an instruction raises do not trap on core `n` (R54, R56). -/
def NoTrap (s : State) (n : Nat) (fl : Flags) : Prop := Unwatched s n ∧ fl &&& (s.core n).traps = 0

/-- CORE_FPCSR after flags are raised: they are merged into it (R55). -/
def FlagsMerged (s t : State) (n : Nat) (fl : Flags) : Prop :=
  (t.core n).cr nFPCSR = (s.core n).cr nFPCSR ||| fl.setWidth 64

/-- `k` bytes at `a` lie in one sector of visible memory free of poison; core `n` has no older store on its way, holds
stores for no version and has no poisoned copy of the sector. -/
structure Readable (s : State) (n a k : Nat) : Prop where
  some : 0 < k
  sector : a % 32 + k ≤ 32
  inMemory : a + k ≤ Config.memTop
  good : s.poisoned (a / 32) = false
  goodCopy : (((s.core n).l1Line (a / 128)).valid &&& ((s.core n).l1Line (a / 128)).poison).toNat.testBit (a / 32 % 4) = false
  noStores : (s.core n).sb = [] ∧ (s.core n).heldSt = []
  committed : (s.core n).heldVer = none

/-- The L1 of core `n` holds the sector of `a`, its line in use before, and no confirmed stream goes on with it (R256,
R275). -/
def InL1 (s : State) (n a : Nat) : Prop :=
  ((s.core n).l1Line (a / 128)).valid &&& BitVec.ofNat 4 (2 ^ (a / 32 % 4)) ≠ 0 ∧
  ((s.core n).l1Line (a / 128)).cold = false ∧
  ∀ t ∈ (s.core n).streams, 3 ≤ t.count → ((a / 128 : Nat) : Int) - t.last ≠ t.stride

/-- No row of the stacks is failing or being copied (R307, R308). -/
def StacksQuiet (s : State) : Prop := s.mem.finds = [] ∧ s.mem.copying = []

/-- `k` bytes at `a` as a number, the byte at the lowest address the least significant. -/
def State.num (s : State) (a k : Nat) : Nat := ofBytes (s.bytesAt a k)

end Machine
end Sys2Proof
end

