-- ==== Sys2Proof/WellFormed.lean ====
section
/-! DEFINITION. Which commands name units that the part has, and which instructions lie in the row of the table that
their constructor names. -/

namespace Sys2Proof

/-! ### Units (R20, R28, R34) -/

def Ctx.wf (x : Ctx) : Bool :=
  decide (x.core < Config.cores) && x.up.all fun u => match u with
    | .reg code => decide (code < 0x400)
    | .l1 _ _ => true
    | .slice _ _ => true
    | .path _ _ => true
    | .tile t r => decide (t < 16 ∧ r < 64)
    | .dot run _ _ => decide (run < 3)

/-- An engine and the two halves of it. -/
def engineOk (engine half : Nat) : Bool := decide (engine < Config.engines) && decide (half < 2)

/-- A sector of visible memory. -/
def sectorOk (sec : Nat) : Bool := decide (sec < Config.memTop / 32)

/-- A bank: stack, pseudo-channel, bank (R290). -/
def bankOk (stack pch bank : Nat) : Bool :=
  decide (stack < Config.dramStacks) && decide (pch < 32) && decide (bank < 96)

/-- A payload that LEN can count (R354). -/
def Packet.wf (p : Packet) : Bool := decide (p.payload.length < 2 ^ 32)

/-- A port and a packet on it. -/
def onPort (port : Nat) (p : Packet) : Bool := decide (port < Config.ports) && p.wf

/-- A write of a register: 4 or 8 bytes at their own alignment (R16). -/
def sizeOk (off size : Nat) : Bool := (size == 4 || size == 8) && off % size == 0

/-! ### Rows -/

/-- The op of a long form, or the op nibble of func. -/
def RL.inRow (f : RL) (short : RF → Bool) (long : Nat → Bool) : Bool :=
  match f with
  | .short f => short f
  | .long op _ => long op.toNat

/-- The op nibble of func names this row. -/
def opIs (f : RF) (n : Nat) : Bool := funcOp f == n

/-- func names this row. -/
def funcIs (f : RF) (n : Nat) : Bool := f.func.toNat == n

/-- Whether an instruction's fields lie in the row that its constructor names (R138 to R147, R174, R175, R200, R278),
and the words of an illegal instruction decode to nothing (R86). -/
def Instr.inRow : Instr → Bool
  | .illegalInstruction x w0 w1 =>
    ((if isLong w0 then decodeLong x w0 w1 else decodeShort x w0).isNone) && (isLong w0 || w1 == 0)
  | .floatingPointElementWise _ f => f.inRow (fun f => !opIs f 14) fun n => decide (0x40 ≤ n ∧ n < 0x80) && n / 4 % 16 != 14
  | .vfun _ f => f.inRow (fun f => opIs f 14) fun n => decide (0x40 ≤ n ∧ n < 0x80) && n / 4 % 16 == 14
  | .integerElementWise _ f => f.inRow (fun _ => true) fun n => decide (0x80 ≤ n ∧ n < 0xC0)
  | .vcvt _ f => opIs f 0
  | .vcvtSr _ f => opIs f 1
  | .vamaxMx _ f => opIs f 2
  | .vamaxT _ f => opIs f 3
  | .vquant _ f => decide (funcOp f < 8)
  | .vscale _ f => opIs f 8 || opIs f 9
  | .vld _ f => opIs f 0
  | .vldff _ f => opIs f 1
  | .vst _ f => opIs f 2
  | .vgat _ f => opIs f 3
  | .vsct _ f => opIs f 4
  | .vsget _ f => opIs f 5
  | .vsput _ f => opIs f 6
  | .vsfill _ f => opIs f 7
  | .vtget _ f => opIs f 8
  | .vtput _ f => opIs f 9
  | .vstrip _ f => opIs f 0
  | .vredsum _ f => opIs f 1
  | .vredmax _ f => opIs f 2
  | .vredmin _ f => opIs f 3
  | .vdot _ f => opIs f 4 || opIs f 5
  | .vsmax _ f => opIs f 6
  | .kand _ f => opIs f 7
  | .kor _ f => opIs f 8
  | .kxor _ f => opIs f 9
  | .knot _ f => opIs f 10
  | .kpop _ f => opIs f 11
  | .kld _ f => opIs f 12
  | .kst _ f => opIs f 13
  | .vbcastf _ f => opIs f 14
  | .vext _ f => opIs f 15
  | .tload _ f => f.inRow (fun f => funcIs f 0) fun n => n == 0xC0
  | .tloadLf48 _ f => f.inRow (fun f => funcIs f 1) fun n => n == 0xC1
  | .tstore _ f => f.inRow (fun f => funcIs f 2) fun n => n == 0xC2
  | .tstoreLf48 _ f => f.inRow (fun f => funcIs f 3) fun n => n == 0xC3
  | .trel _ f => funcIs f 4
  | .trelM _ f => funcIs f 5
  | .tcfg _ f => funcIs f 6
  | .tmv _ fi _ => fi.toNat < 10 || (12 ≤ fi.toNat && fi.toNat < 15)
  | .tmvMx _ fi _ => 5 ≤ fi.toNat && fi.toNat < 10
  | .cacheDead _ f => funcIs f 0
  | .cachePf _ f => funcIs f 1
  | .cachePfLlc _ f => funcIs f 2
  | .cacheIsync _ f => funcIs f 3
  | .tlbInv _ f => funcIs f 4
  | .tlbInva _ f => funcIs f 5
  | .registerWrite _ _ _ => true
  | .rcRead _ _ _ => true
  | .integerOps _ _ => true
  | .addi _ _ => true
  | .andi _ _ => true
  | .ori _ _ => true
  | .xori _ _ => true
  | .slti _ _ => true
  | .lui _ _ => true
  | .lhiL _ _ => true
  | .scalarLoad _ _ _ => true
  | .scalarStore _ _ _ => true
  | .flw _ _ => true
  | .fld _ _ => true
  | .fsd _ _ => true
  | .fsw _ _ => true
  | .fll _ _ => true
  | .fsl _ _ => true
  | .branch _ _ _ => true
  | .jal _ _ => true
  | .jalr _ _ => true
  | .fpOps _ _ => true
  | .cregRd _ _ => true
  | .cregWr _ _ => true
  | .trapEnv _ => true
  | .trapBp _ => true
  | .rtx _ => true
  | .fence _ => true
  | .fenceE _ => true
  | .atomics _ _ => true
  | .wedged _ => true
  | .asyncDelivery _ => true
  | .storeDrain _ _ _ => true
  | .lateStoreError _ _ => true
  | .fset _ _ => true
  | .lseClr _ _ => true
  | .sorrelClr _ _ => true
  | .ptbWrite _ _ => true
  | .l1CtrlWrite _ _ => true
  | .missModeSwitch _ => true
  | .floatingPointImmediate _ _ => true
  | .integerImmediate _ _ => true
  | .tileOpSettle _ => true
  | .tmma _ _ => true
  | .tmmaX _ _ => true
  | .tmmaStart _ => true
  | .engineRunEnd _ _ _ => true
  | .replayStart _ => true
  | .verdictRecord => true
  | .engineSelftestEnd _ _ => true
  | .ttakeRead _ _ => true
  | .taskTake _ => true
  | .tdoneWrite _ _ => true
  | .taskEnd _ => true
  | .remoteStoresSent _ => true
  | .lineFill _ _ _ => true
  | .clean _ _ => true
  | .inval _ _ => true
  | .zero _ _ => true
  | .unpin _ _ => true
  | .prefetch _ _ => true
  | .abort _ _ => true
  | .swathLine _ _ => true
  | .swathComplete _ => true
  | .stackRead _ _ _ => true
  | .stackWrite _ _ => true
  | .remapComplete _ _ _ _ _ => true
  | .refreshDue _ _ _ => true
  | .refreshWindowEnd => true
  | .stackTempSample _ _ => true
  | .zoneStepTimeout _ => true
  | .overwriteComplete => true
  | .epochIn => true
  | .timeArrival => true
  | .periodReached => true
  | .tolExpiry => true
  | .slotFire _ => true
  | .timerefLost => true
  | .pllLock => true
  | .runStart _ => true
  | .runStop _ => true
  | .slotArm _ _ => true
  | .rd _ _ => true
  | .rdr _ _ => true
  | .wr _ _ => true
  | .wra _ _ => true
  | .atm _ _ => true
  | .atr _ _ => true
  | .col _ _ => true
  | .time _ _ _ => true
  | .packetForward _ _ => true
  | .trackerTimeout _ => true
  | .filterExpiry _ _ => true
  | .flit _ _ _ => true
  | .linkGiveUp _ => true
  | .portUp _ _ => true
  | .retrain _ _ => true
  | .pelEnable _ => true
  | .pelDisable _ => true
  | .pelCacheDisable _ => true
  | .collectiveRead _ => true
  | .collectiveComplete _ => true
  | .collectiveDeadline _ => true
  | .mailboxPost _ _ => true
  | .mailboxAccept => true
  | .mailboxFree _ _ => true
  | .commandComplete _ => true
  | .attach _ => true
  | .submit _ => true
  | .sheafAdd _ => true
  | .sheafSet _ => true
  | .sheafRead _ => true
  | .verdict _ => true
  | .stepWrite _ => true
  | .coreMsg _ => true
  | .fabricCfg _ => true
  | .memAffinity _ => true
  | .retiredList _ => true
  | .faultRead _ => true
  | .selftest _ => true
  | .selftestComplete _ _ _ _ => true
  | .coreReset _ => true
  | .perCoreReset _ => true
  | .coreRelease _ _ => true
  | .memRetrain _ _ => true
  | .calibrate _ _ _ => true
  | .calRead _ => true
  | .calWrite _ => true
  | .deviceReset _ => true
  | .lcSet _ => true
  | .spdm _ => true
  | .task => true
  | .barrier => true
  | .barrierDeadline => true
  | .waitEpoch => true
  | .specBegin => true
  | .specEnd => true
  | .fenceRecord => true
  | .copy => true
  | .fill => true
  | .mark => true
  | .copyComplete _ => true
  | .checkpointCopy _ => true
  | .checkpointComplete _ => true
  | .msixHoldoff _ => true
  | .bar2Read _ _ => true
  | .bar2Write _ _ _ => true
  | .functionReset _ => true
  | .controlProcessorStall _ => true
  | .linkFailure _ => true
  | .getPdr _ => true
  | .getSensorReading _ => true
  | .setEventReceiver _ => true
  | .platformEventMessage => true
  | .pollForPlatformEventMessage _ => true
  | .pldmType0 _ => true
  | .requestUpdate _ => true
  | .passComponentTable _ => true
  | .updateComponent _ _ => true
  | .requestFirmwareData _ _ => true
  | .transferComplete => true
  | .verifyComplete => true
  | .applyComplete => true
  | .activateFirmware => true
  | .cancelUpdate => true
  | .getStatus => true
  | .getVersion _ => true
  | .getCapabilities _ => true
  | .negotiateAlgorithms _ => true
  | .getDigests _ => true
  | .getCertificate _ _ _ _ => true
  | .challenge _ _ _ => true
  | .getMeasurements _ _ _ _ => true
  | .setdasa _ _ => true
  | .entdaa _ => true
  | .coldReset => true
  | .warmReset => true
  | .firmwareStart => true
  | .bootReady => true
  | .recWrite _ => true
  | .recCommit _ => true
  | .powerLoss _ => true
  | .thermalTrip => true
  | .junctionSample _ _ _ _ _ => true
  | .governorSample _ => true
  | .hold => true
  | .bypass => true
  | .idcode => true
  | .samplePreload _ => true
  | .extest => true
  | .highz => true
  | .clamp => true
  | .perfClr _ => true
  | .perstDeassertion => true
  | .deferredImageBoot => true
  | .epochOutRelease => true
  | .inBandInterruptEnable _ => true

/-- An access of BAR0 has a size that registers take, and lies in its 2 MiB (R16, R374). -/
def HostReg.wf (r : HostReg) (size : Nat) : Bool :=
  match r with
  | .bar off => sizeOk off size && decide (off < 0x200000)
  | .cfg _ => true

/-- Whether the units that a command names exist. -/
def Instr.units : Instr → Bool
  | .registerWrite r size _ => r.wf size
  | .rcRead r size _ => r.wf size
  | .integerOps x _ => x.wf
  | .addi x _ => x.wf
  | .andi x _ => x.wf
  | .ori x _ => x.wf
  | .xori x _ => x.wf
  | .slti x _ => x.wf
  | .lui x _ => x.wf
  | .lhiL x _ => x.wf
  | .scalarLoad x _ _ => x.wf
  | .scalarStore x _ _ => x.wf
  | .flw x _ => x.wf
  | .fld x _ => x.wf
  | .fsd x _ => x.wf
  | .fsw x _ => x.wf
  | .fll x _ => x.wf
  | .fsl x _ => x.wf
  | .branch x _ _ => x.wf
  | .jal x _ => x.wf
  | .jalr x _ => x.wf
  | .fpOps x _ => x.wf
  | .cregRd x _ => x.wf
  | .cregWr x _ => x.wf
  | .trapEnv x => x.wf
  | .trapBp x => x.wf
  | .rtx x => x.wf
  | .fence x => x.wf
  | .fenceE x => x.wf
  | .atomics x _ => x.wf
  | .illegalInstruction x _ _ => x.wf
  | .wedged core => decide (core < Config.cores)
  | .asyncDelivery core => decide (core < Config.cores)
  | .storeDrain core _ _ => decide (core < Config.cores)
  | .lateStoreError core _ => decide (core < Config.cores)
  | .fset x _ => x.wf
  | .lseClr x _ => x.wf
  | .sorrelClr x _ => x.wf
  | .ptbWrite x _ => x.wf
  | .l1CtrlWrite x _ => x.wf
  | .missModeSwitch core => decide (core < Config.cores)
  | .floatingPointElementWise x _ => x.wf
  | .vfun x _ => x.wf
  | .integerElementWise x _ => x.wf
  | .vcvt x _ => x.wf
  | .vcvtSr x _ => x.wf
  | .vamaxMx x _ => x.wf
  | .vamaxT x _ => x.wf
  | .vquant x _ => x.wf
  | .vscale x _ => x.wf
  | .floatingPointImmediate x _ => x.wf
  | .integerImmediate x _ => x.wf
  | .vld x _ => x.wf
  | .vldff x _ => x.wf
  | .vst x _ => x.wf
  | .vgat x _ => x.wf
  | .vsct x _ => x.wf
  | .vsget x _ => x.wf
  | .vsput x _ => x.wf
  | .vsfill x _ => x.wf
  | .vtget x _ => x.wf
  | .vtput x _ => x.wf
  | .vstrip x _ => x.wf
  | .vredsum x _ => x.wf
  | .vredmax x _ => x.wf
  | .vredmin x _ => x.wf
  | .vdot x _ => x.wf
  | .vsmax x _ => x.wf
  | .kand x _ => x.wf
  | .kor x _ => x.wf
  | .kxor x _ => x.wf
  | .knot x _ => x.wf
  | .kpop x _ => x.wf
  | .kld x _ => x.wf
  | .kst x _ => x.wf
  | .vbcastf x _ => x.wf
  | .vext x _ => x.wf
  | .tload x _ => x.wf
  | .tloadLf48 x _ => x.wf
  | .tstore x _ => x.wf
  | .tstoreLf48 x _ => x.wf
  | .trel x _ => x.wf
  | .trelM x _ => x.wf
  | .tcfg x _ => x.wf
  | .tileOpSettle core => decide (core < Config.cores)
  | .tmma x _ => x.wf
  | .tmmaX x _ => x.wf
  | .tmv x _ _ => x.wf
  | .tmvMx x _ _ => x.wf
  | .tmmaStart x => decide (x.core < Config.cores)
  | .engineRunEnd engine half _ => engineOk engine half
  | .replayStart cluster => decide (cluster < Config.clusters)
  | .verdictRecord => true
  | .engineSelftestEnd engine _ => decide (engine < Config.engines)
  | .ttakeRead x _ => x.wf
  | .taskTake core => decide (core < Config.cores)
  | .tdoneWrite x _ => x.wf
  | .taskEnd core => decide (core < Config.cores)
  | .remoteStoresSent version => decide (version < Config.versions)
  | .cacheDead x _ => x.wf
  | .cachePf x _ => x.wf
  | .cachePfLlc x _ => x.wf
  | .cacheIsync x _ => x.wf
  | .tlbInv x _ => x.wf
  | .tlbInva x _ => x.wf
  | .lineFill core _ _ => decide (core < Config.cores)
  | .clean ch _ => decide (ch < 16)
  | .inval ch _ => decide (ch < 16)
  | .zero ch _ => decide (ch < 16)
  | .unpin ch _ => decide (ch < 16)
  | .prefetch ch _ => decide (ch < 16)
  | .abort ch _ => decide (ch < 16)
  | .swathLine ch line => decide (ch < 16) && decide (line < Config.memTop / 128)
  | .swathComplete ch => decide (ch < 16)
  | .stackRead sector _ _ => sectorOk sector
  | .stackWrite line _ => decide (line < Config.memTop / 128)
  | .remapComplete stack pch bank _ _ => bankOk stack pch bank
  | .refreshDue stack pch bank => bankOk stack pch bank
  | .refreshWindowEnd => true
  | .stackTempSample stack _ => decide (stack < Config.dramStacks)
  | .zoneStepTimeout stack => decide (stack < Config.dramStacks)
  | .overwriteComplete => true
  | .epochIn => true
  | .timeArrival => true
  | .periodReached => true
  | .tolExpiry => true
  | .slotFire slot => decide (slot < Config.eventSlots)
  | .timerefLost => true
  | .pllLock => true
  | .runStart _ => true
  | .runStop _ => true
  | .slotArm slot _ => decide (slot < Config.eventSlots)
  | .rd port p => onPort port p
  | .rdr port p => onPort port p
  | .wr port p => onPort port p
  | .wra port p => onPort port p
  | .atm port p => onPort port p
  | .atr port p => onPort port p
  | .col port p => onPort port p
  | .time port p _ => onPort port p
  | .packetForward port p => onPort port p
  | .trackerTimeout tag => decide (tag < Config.trackers)
  | .filterExpiry _ tag => decide (tag < 2 ^ 20)
  | .flit port _ _ => decide (port < Config.ports)
  | .linkGiveUp port => decide (port < Config.ports)
  | .portUp port _ => decide (port < Config.ports)
  | .retrain port _ => decide (port < Config.ports)
  | .pelEnable _ => true
  | .pelDisable _ => true
  | .pelCacheDisable _ => true
  | .collectiveRead _ => true
  | .collectiveComplete _ => true
  | .collectiveDeadline _ => true
  | .mailboxPost mb _ => decide (mb < Config.mailboxes)
  | .mailboxAccept => true
  | .mailboxFree mb _ => decide (mb < Config.mailboxes)
  | .commandComplete mb => decide (mb < Config.mailboxes)
  | .attach mb => decide (mb < Config.mailboxes)
  | .submit mb => decide (mb < Config.mailboxes)
  | .sheafAdd mb => decide (mb < Config.mailboxes)
  | .sheafSet mb => decide (mb < Config.mailboxes)
  | .sheafRead mb => decide (mb < Config.mailboxes)
  | .verdict mb => decide (mb < Config.mailboxes)
  | .stepWrite mb => decide (mb < Config.mailboxes)
  | .coreMsg mb => decide (mb < Config.mailboxes)
  | .fabricCfg mb => decide (mb < Config.mailboxes)
  | .memAffinity mb => decide (mb < Config.mailboxes)
  | .retiredList mb => decide (mb < Config.mailboxes)
  | .faultRead mb => decide (mb < Config.mailboxes)
  | .selftest mb => decide (mb < Config.mailboxes)
  | .selftestComplete isCore unit _ _ => decide (unit < if isCore then Config.cores else Config.engines)
  | .coreReset mb => decide (mb < Config.mailboxes)
  | .perCoreReset core => decide (core < Config.cores)
  | .coreRelease core _ => decide (core < Config.cores)
  | .memRetrain mb _ => decide (mb < Config.mailboxes)
  | .calibrate mb _ _ => decide (mb < Config.mailboxes)
  | .calRead mb => decide (mb < Config.mailboxes)
  | .calWrite mb => decide (mb < Config.mailboxes)
  | .deviceReset mb => decide (mb < Config.mailboxes)
  | .lcSet mb => decide (mb < Config.mailboxes)
  | .spdm mb => decide (mb < Config.mailboxes)
  | .task => true
  | .barrier => true
  | .barrierDeadline => true
  | .waitEpoch => true
  | .specBegin => true
  | .specEnd => true
  | .fenceRecord => true
  | .copy => true
  | .fill => true
  | .mark => true
  | .copyComplete _ => true
  | .checkpointCopy _ => true
  | .checkpointComplete _ => true
  | .msixHoldoff vector => decide (vector < 4)
  | .bar2Read _ size => decide (0 < size)
  | .bar2Write _ bytes _ => decide (0 < bytes.length)
  | .functionReset _ => true
  | .controlProcessorStall processor => decide (processor < 2)
  | .linkFailure _ => true
  | .getPdr _ => true
  | .getSensorReading _ => true
  | .setEventReceiver _ => true
  | .platformEventMessage => true
  | .pollForPlatformEventMessage _ => true
  | .pldmType0 _ => true
  | .requestUpdate _ => true
  | .passComponentTable _ => true
  | .updateComponent _ _ => true
  | .requestFirmwareData _ _ => true
  | .transferComplete => true
  | .verifyComplete => true
  | .applyComplete => true
  | .activateFirmware => true
  | .cancelUpdate => true
  | .getStatus => true
  | .getVersion _ => true
  | .getCapabilities _ => true
  | .negotiateAlgorithms _ => true
  | .getDigests _ => true
  | .getCertificate _ slot _ _ => decide (slot < 8)
  | .challenge _ _ nonce => nonce.length == 32
  | .getMeasurements _ _ _ nonce => nonce.length == 32
  | .setdasa _ _ => true
  | .entdaa _ => true
  | .coldReset => true
  | .warmReset => true
  | .firmwareStart => true
  | .bootReady => true
  | .recWrite _ => true
  | .recCommit _ => true
  | .powerLoss _ => true
  | .thermalTrip => true
  | .junctionSample cluster _ _ _ _ => decide (cluster < Config.clusters)
  | .governorSample _ => true
  | .hold => true
  | .bypass => true
  | .idcode => true
  | .samplePreload preload => preload.length == 5
  | .extest => true
  | .highz => true
  | .clamp => true
  | .perfClr t => (match t with
    | .core x _ => x.wf
    | .device _ => true)
  | .perstDeassertion => true
  | .deferredImageBoot => true
  | .epochOutRelease => true
  | .inBandInterruptEnable _ => true

/-- A well-formed command. -/
def Instr.wf (i : Instr) : Bool := i.units && i.inRow

end Sys2Proof
end

