-- ==== Sys2Proof/Certificates/Slice0/Obligations.lean ====
section
/-! DEFINITION. The statements for the provers. -/

open Sys2Proof Sys2Proof.Machine

/-! ### The block and its words -/

/-- A step runs the command at the front of the queue on the state with the rest of the queue. -/
def StepRunsFrontCommand : Prop :=
  ∀ (c : Instr) (q : List Instr) (s : State),
    step { s with pending := c :: q } = exec c { s with pending := q }

/-- On an empty queue a step is one tick (the model's choice, log entry 7). -/
def EmptyQueueTicks : Prop :=
  ∀ s : State, s.pending = [] → step s = .next (tick s)

/-- A step runs the command at the front of the queue on the state with the rest of it; on an empty queue it is one tick
(the model's choice, log entry 7). -/
def Obligations.QueueIsServed : Prop := StepRunsFrontCommand ∧ EmptyQueueTicks

/-- The words of every well-formed instruction decode to it, with every operand at every value: layouts R84 and R85, rows
of R87 to R91, R138 to R147, R174, R175, R185, R186, R200, R278 and R514; words that decode to nothing give the
illegal instruction (R86). -/
def Obligations.DecodeOfEncode : Prop :=
  ∀ (i : Instr) (w : W32 × W32), encodeInsn i = some w → i.inRow = true → ∃ x, decodeInsn x w.1 w.2 = i

/-- What a cold reset leaves of a core, of the timebase and of the mailboxes, by the reset values of R94, R102, R221,
R274, R331 and R382, and that it begins the life of the part with nothing queued and nothing retired. -/
def ResetValues : Prop :=
  (∀ n, (State.reset.core n).pl = 3 ∧ (State.reset.core n).ie = false ∧ (State.reset.core n).nest = 0 ∧
    (State.reset.core n).cr nMSP = 0x7F0000004000 ∧ (State.reset.core n).cr 0x043 = 3 ∧
    (State.reset.core n).cr nL1CTRL = 0x411 ∧ (State.reset.core n).cr nMXCTRL = 0x700 ∧
    ∀ r, (State.reset.core n).arch.rg r = 0) ∧
  State.reset.reg (wTB + 0x20) = 0x3D090 ∧ State.reset.tbTol = 0x19 ∧ State.reset.tb.mode = .stopped ∧
  (∀ m, (State.reset.mb m).state = .free) ∧ (∀ n, State.reset.sheaf n = 0) ∧ State.reset.pending = []

/-! ### Scalar instructions -/

/-- R88: a func of major 0x00 writes its result to g[d], g0 discarding it, and the pc moves past the instruction; no
other register and no other part of the device differs. -/
def IntegerOpsWriteResult : Prop :=
  ∀ (s : State) (n : Nat) (f : RF) (v : W64), Issues s n 4 → f.k = 0 → (f.func = 0x13 → f.b = 0) →
    intOp f.func.toNat ((s.core n).arch.rg f.a.toNat) ((s.core n).arch.rg f.b.toNat) = some v →
    Completes (.integerOps ⟨n, []⟩ f) s fun t =>
      Retires s t n (s.pcAfter n 4) ∧ RegsKept (s.core n).arch (t.core n).arch { g := [f.d.toNat] } ∧
      (t.core n).arch.rg f.d.toNat = if f.d = 0 then 0 else v

/-- R88: div gives the largest quotient of the dividend's sign on a zero divisor and the largest positive number where
the quotient overflows; rem gives 0 in both; divu gives all ones and remu 0 on a zero divisor. None of them traps. -/
def DivisionNeverTraps : Prop :=
  ∀ a b : W64,
    intOp 0x0D a 0 = some (if 0 ≤ a.toInt then 0x7FFFFFFFFFFFFFFF else 0x8000000000000000) ∧
    intOp 0x0F a 0 = some 0 ∧ intOp 0x0E a 0 = some 0xFFFFFFFFFFFFFFFF ∧ intOp 0x10 a 0 = some 0 ∧
    intOp 0x0D 0x8000000000000000 0xFFFFFFFFFFFFFFFF = some 0x7FFFFFFFFFFFFFFF ∧
    intOp 0x0F 0x8000000000000000 0xFFFFFFFFFFFFFFFF = some 0 ∧
    (b ≠ 0 → ¬ (a.toInt = -(2 ^ 63) ∧ b.toInt = -1) → ∃ q r : W64, intOp 0x0D a b = some q ∧ intOp 0x0F a b = some r ∧
      a.toInt = q.toInt * b.toInt + r.toInt ∧ r.toInt.natAbs < b.toInt.natAbs ∧ (r.toInt = 0 ∨ (r.toInt < 0 ↔ a.toInt < 0)))

/-- R88: integer operations and division. -/
def Obligations.IntegerInstructions : Prop := IntegerOpsWriteResult ∧ DivisionNeverTraps

/-- What an immediate form leaves in g[d]. -/
def ImmediateWrites (i : Instr) (s : State) (n : Nat) (F : Form) (v : W64) : Prop :=
  Completes i s fun t =>
    Retires s t n (s.pcAfter n F.len) ∧ RegsKept (s.core n).arch (t.core n).arch { g := [F.d] } ∧
    (t.core n).arch.rg F.d = if F.d = 0 then 0 else v

/-- R87, R514: addi, andi, ori, xori, slti in both layouts, lui and lhi.l. -/
def Obligations.ImmediatesWriteResult : Prop :=
  ∀ (s : State) (n : Nat) (x : Ctx), x = ⟨n, []⟩ →
    (∀ f F, F = formIL 0x01 f → F.bad = false → Issues s n F.len →
      ImmediateWrites (.addi x f) s n F ((s.core n).arch.rg F.a + F.imm)) ∧
    (∀ f F, F = formIL 0x02 f → F.bad = false → Issues s n F.len →
      ImmediateWrites (.andi x f) s n F ((s.core n).arch.rg F.a &&& F.imm)) ∧
    (∀ f F, F = formIL 0x03 f → F.bad = false → Issues s n F.len →
      ImmediateWrites (.ori x f) s n F ((s.core n).arch.rg F.a ||| F.imm)) ∧
    (∀ f F, F = formIL 0x04 f → F.bad = false → Issues s n F.len →
      ImmediateWrites (.xori x f) s n F ((s.core n).arch.rg F.a ^^^ F.imm)) ∧
    (∀ f F, F = formIL 0x05 f → F.bad = false → Issues s n F.len →
      ImmediateWrites (.slti x f) s n F (if ((s.core n).arch.rg F.a).toInt < F.imm.toInt then 1 else 0)) ∧
    (∀ f : IF, f.a = 0 → Issues s n 4 →
      ImmediateWrites (.lui x f) s n (formI 0x06 f) (f.imm.signExtend 64 <<< 16)) ∧
    (∀ f : LF, f.b = 0 → f.k = 0 → f.md = 0 → Issues s n 8 →
      ImmediateWrites (.lhiL x f) s n (formL 0x06 f)
        (f.imm ++ ((s.core n).arch.rg f.a.toNat).extractLsb' 0 32))

/-- R84, R87, R514: a branch moves the pc by four times its offset where its comparison holds, and past itself where
it does not; it writes no register. -/
def BranchesMovePc : Prop :=
  ∀ (s : State) (n : Nat) (op : BrOp) (f : BL) (F : Form), F = formBL (branchNumber op) f → F.bad = false → Issues s n F.len →
    Completes (.branch ⟨n, []⟩ op f) s fun t =>
      let a := (s.core n).arch.rg F.a
      let b := (s.core n).arch.rg F.b
      let taken : Prop := match op with
        | .beq => a = b
        | .bne => a ≠ b
        | .blt => a.toInt < b.toInt
        | .bge => b.toInt ≤ a.toInt
        | .bltu => a.toNat < b.toNat
        | .bgeu => b.toNat ≤ a.toNat
      (taken → Retires s t n ((s.core n).arch.pc + 4 * F.imm)) ∧ (¬ taken → Retires s t n (s.pcAfter n F.len)) ∧
      RegsKept (s.core n).arch (t.core n).arch {}

/-- R87, R514: jal links in g1 and jumps by four times its offset; jalr links in g[d] and jumps to g[a] + imm with bits
[1:0] cleared, the address read before the link is written. -/
def JumpsLink : Prop :=
  ∀ (s : State) (n : Nat) (x : Ctx), x = ⟨n, []⟩ →
    (∀ f F, F = formJL 0x1E f → F.bad = false → Issues s n F.len →
      Completes (.jal x f) s fun t =>
        Retires s t n ((s.core n).arch.pc + 4 * F.imm) ∧ RegsKept (s.core n).arch (t.core n).arch { g := [1] } ∧
        (t.core n).arch.rg 1 = s.pcAfter n F.len) ∧
    (∀ f F, F = formIL 0x1F f → F.bad = false → Issues s n F.len →
      Completes (.jalr x f) s fun t =>
        Retires s t n (((s.core n).arch.rg F.a + F.imm) &&& ~~~3) ∧
        RegsKept (s.core n).arch (t.core n).arch { g := [F.d] } ∧
        (t.core n).arch.rg F.d = if F.d = 0 then 0 else s.pcAfter n F.len)

/-- R87: branches and jumps. -/
def Obligations.ControlFlow : Prop := BranchesMovePc ∧ JumpsLink

/-- R55, R89: a func of major 0x20 whose flags do not trap writes its result to f[d] or g[d] and merges its flags. -/
def FpOpsWriteResult : Prop :=
  ∀ (s : State) (n : Nat) (f : RF), Issues s n 4 → f.k = 0 → (f.func = 0x04 → f.b = 0) →
    let a := (s.core n).arch
    let r := fpOp f.func.toNat (a.rg f.a.toNat) (a.rf f.a.toNat) (a.rf f.b.toNat) (a.rf f.d.toNat)
    (∀ v fl, r = some (.toF v fl) → NoTrap s n fl →
      Completes (.fpOps ⟨n, []⟩ f) s fun t =>
        Retires s t n (s.pcAfter n 4) ∧ FlagsMerged s t n fl ∧ (t.core n).arch.rf f.d.toNat = v ∧
        RegsKept a (t.core n).arch { f := [f.d.toNat], creg := [nFPCSR] }) ∧
    (∀ v fl, r = some (.toG v fl) → NoTrap s n fl →
      Completes (.fpOps ⟨n, []⟩ f) s fun t =>
        Retires s t n (s.pcAfter n 4) ∧ FlagsMerged s t n fl ∧
        (t.core n).arch.rg f.d.toNat = (if f.d = 0 then 0 else v) ∧
        RegsKept a (t.core n).arch { g := [f.d.toNat], creg := [nFPCSR] })

/-- R87, R42, R515: loads of one sector. ld to lbu write g[d], sign-extended where the op says so; fld writes the eight
bytes, flw the FP32 widened and fll the LF48 widened, to f[d]. -/
def Obligations.LoadsReadMemory : Prop :=
  ∀ (s : State) (n : Nat) (x : Ctx), x = ⟨n, []⟩ →
    let ok := fun (F : Form) (k : Nat) =>
      F.bad = false ∧ Issues s n F.len ∧ Readable s n (memAddr s n F) k ∧ InL1 s n (memAddr s n F)
    let toF := fun (i : Instr) (F : Form) (v : W64) => Completes i s fun t =>
      Retires s t n (s.pcAfter n F.len) ∧ RegsKept (s.core n).arch (t.core n).arch { f := [F.d] } ∧
      (t.core n).arch.rf F.d = v
    (∀ op f F, F = formIL (loadNumber op) f → ok F (loadSize op).1 →
      ImmediateWrites (.scalarLoad x op f) s n F
        (if (loadSize op).2 then BitVec.ofInt 64 (sint (8 * (loadSize op).1) (s.num (memAddr s n F) (loadSize op).1))
         else BitVec.ofNat 64 (s.num (memAddr s n F) (loadSize op).1))) ∧
    (∀ f F, F = formIL 0x0F f → ok F 8 → toF (.fld x f) F (BitVec.ofNat 64 (s.num (memAddr s n F) 8))) ∧
    (∀ f F, F = formIL 0x07 f → ok F 4 → toF (.flw x f) F (BitVec.ofNat 64 (widenF32 (s.num (memAddr s n F) 4)))) ∧
    (∀ f F, F = formIL 0x16 f → ok F 6 → toF (.fll x f) F (BitVec.ofNat 64 (s.num (memAddr s n F) 6 <<< 16)))

/-- What a scalar store of `k` bytes leaves: the core sees the bytes of `v` at the address and every other byte as before;
no byte of memory differs until the store leaves the store buffer. -/
def StoreSeen (i : Instr) (s : State) (n : Nat) (F : Form) (k v : Nat) (fl : Flags) : Prop :=
  Completes i s fun t =>
    OnlyCore s t n ∧ (t.core n).arch.pc = s.pcAfter n F.len ∧ (t.core n).wait = .none ∧ FlagsMerged s t n fl ∧
    RegsKept (s.core n).arch (t.core n).arch { creg := [nFPCSR] } ∧
    (∀ j, j < k → (t.seeByte n (memAddr s n F + j)).1 = BitVec.ofNat 8 (v >>> (8 * j))) ∧
    (∀ a, ¬ (memAddr s n F ≤ a ∧ a < memAddr s n F + k) → (t.seeByte n a).1 = (s.seeByte n a).1)

/-- R87, R43, R257, R515: stores of one sector pass through the store buffer and are seen by their own core at once. -/
def StoresSeenByCore : Prop :=
  ∀ (s : State) (n : Nat) (x : Ctx), x = ⟨n, []⟩ →
    let ok := fun (F : Form) (k : Nat) => F.bad = false ∧ Issues s n F.len ∧ Readable s n (memAddr s n F) k
    (∀ op f F, F = formIL (storeNumber op) f → ok F (storeSize op) →
      StoreSeen (.scalarStore x op f) s n F (storeSize op) ((s.core n).arch.rg F.d).toNat 0) ∧
    (∀ f F, F = formIL 0x14 f → ok F 8 → StoreSeen (.fsd x f) s n F 8 ((s.core n).arch.rf F.d).toNat 0) ∧
    (∀ f F v fl, F = formIL 0x15 f → ok F 4 → convertEnc .f64 .f32 ((s.core n).arch.rf F.d).toNat .rne false = (v, fl) →
      NoTrap s n fl → StoreSeen (.fsw x f) s n F 4 v fl) ∧
    (∀ f F v fl, F = formIL 0x17 f → ok F 6 → narrowLf48 ((s.core n).arch.rf F.d).toNat = (v, fl) → NoTrap s n fl →
      StoreSeen (.fsl x f) s n F 6 v fl)

/-- R257, R267, R405: an entry of the store buffer that no older entry of its line holds up leaves it, and its bytes are then
in memory, every other byte as before, also where it met an error in its L1 line. -/
def DrainedStoreReachesMemory : Prop :=
  ∀ (s : State) (n i : Nat) (e : SbEntry) (err : DrainErr), err ≠ .path → n < Config.cores → (s.core n).sb[i]? = some e →
    (s.core n).blockedSb i e = false → e.ver = none → e.dead = false → e.keep = 0 → e.addr.toNat % 32 = 0 → e.addr.toNat + 32 ≤ Config.memTop →
    s.frameRetired (e.addr.toNat / 4096) = false → s.lineCopying (e.addr.toNat / 128) = false →
    Completes (.storeDrain n i err) s fun t =>
      (t.core n).sb = ((s.core n).dropSb i).sb ∧
      ∀ a, t.byte a =
        if a / 32 = e.addr.toNat / 32 ∧ e.mask.toNat.testBit (a % 32) then byteAt e.data (a % 32) else s.byte a

/-- R91: an atomic on an aligned word or doubleword of memory returns the old value in g[d], a word sign-extended, and
memory takes the new value at once; no other byte differs. -/
def Obligations.AtomicsExchange : Prop :=
  ∀ (s : State) (n : Nat) (f : RF), Issues s n 4 → f.k = 0 → f.func.toNat % 128 < 8 →
    let w := if f.func.toNat < 128 then 32 else 64
    let a := ((s.core n).arch.rg f.a.toNat).toNat
    let old := s.num a (w / 8)
    let new := atomicOp (f.func.toNat % 16) w old (((s.core n).arch.rg f.b.toNat).toNat % 2 ^ w)
      (((s.core n).arch.rg f.d.toNat).toNat % 2 ^ w)
    a % (w / 8) = 0 → Readable s n a (w / 8) → StacksQuiet s →
    Completes (.atomics ⟨n, []⟩ f) s fun t =>
      (t.core n).arch.pc = s.pcAfter n 4 ∧ (t.core n).wait = .none ∧
      RegsKept (s.core n).arch (t.core n).arch { g := [f.d.toNat] } ∧
      (t.core n).arch.rg f.d.toNat = (if f.d = 0 then 0 else BitVec.ofInt 64 (if w = 32 then sint 32 old else (old : Int))) ∧
      t.num a (w / 8) = new ∧ ∀ b, ¬ (a ≤ b ∧ b < a + w / 8) → t.byte b = s.byte b

/-! ### Exceptions -/

/-- A descriptor at M with a frame that fits on the machine-stack SRAM (R97, R99, R101). -/
structure EntersAtM (s : State) (n cause : Nat) (d : Desc) : Prop where
  found : s.findDesc n cause = some d
  target : d.target = 3
  fresh : d.keep = false
  low : sramBase ≤ (d.sp.toNat - 64) / 64 * 64
  high : d.sp.toNat ≤ sramBase + 0x4000
  room : d.limit.toNat ≤ (d.sp.toNat - 64) / 64 * 64
  plain : (s.core n).spec = false

/-- R98, R99, R106: what taking a cause at the present pc leaves: g31 at the frame, level M, NEST one more, IE cleared
under IMASK, CORE_CAUSE and CORE_TVAL written, CORE_PROGRESS.VALID cleared, the pc at the handler, and the frame of the
interrupted state in the SRAM. -/
def EnteredWith (s t : State) (n : Nat) (cause tval : W64) (d : Desc) : Prop :=
  let f := (d.sp.toNat - 64) / 64 * 64
  let c := s.core n
  let e := t.core n
  OnlyCore s t n ∧ e.arch.rg 31 = BitVec.ofNat 64 f ∧ e.pl = 3 ∧ e.nest = min 255 (c.nest + 1) ∧
  e.ie = (c.ie && !d.imask) ∧ e.cr nCAUSE = cause ∧ e.cr nTVAL = tval ∧
  (e.cr nPROGRESS).toNat.testBit 63 = false ∧ e.cr nSLIM = (d.limit &&& ~~~63) ∧ e.arch.pc = d.handler &&& ~~~3 ∧
  (∀ i, i < 64 → e.sramByte (f - sramBase + i) = (c.frame cause tval 0).getD i 0) ∧
  RegsKept c.arch e.arch { g := [31], creg := [nSTATUS, nCAUSE, nTVAL, nPROGRESS, nSLIM] }

/-- A synchronous cause has been taken. -/
def Entered (s t : State) (n cause : Nat) (tval : W64) (d : Desc) : Prop :=
  EnteredWith s t n (BitVec.ofNat 64 (cause % 128)) tval d

/-- R90, R86, R98: trap.env takes cause 0x0E, trap.bp 0x0F and an instruction that decodes to nothing 0x02 with its first
word. -/
def TrapsEnterHandler : Prop :=
  ∀ (s : State) (n : Nat) (d : Desc),
    (Issues s n 4 → EntersAtM s n 0x0E d → Completes (.trapEnv ⟨n, []⟩) s fun t => Entered s t n 0x0E 0 d) ∧
    (Issues s n 4 → EntersAtM s n 0x0F d → Completes (.trapBp ⟨n, []⟩) s fun t => Entered s t n 0x0F 0 d) ∧
    (∀ w0 w1 : W32, Issues s n (if isLong w0 then 8 else 4) → EntersAtM s n 0x02 d →
      Completes (.illegalInstruction ⟨n, []⟩ w0 w1) s fun t => Entered s t n 0x02 (w0.setWidth 64) d)

/-- R56, R107: a flag that traps raises cause 0x06 with the flags in CORE_TVAL; the flags are merged and the destination
holds what it held. -/
def TrappingFlagKeepsDestination : Prop :=
  ∀ (s : State) (n : Nat) (f : RF) (v : W64) (fl : Flags) (d : Desc), Issues s n 4 → f.k = 0 → (f.func = 0x04 → f.b = 0) →
    fpOp f.func.toNat ((s.core n).arch.rg f.a.toNat) ((s.core n).arch.rf f.a.toNat) ((s.core n).arch.rf f.b.toNat)
      ((s.core n).arch.rf f.d.toNat) = some (.toF v fl) →
    (s.core n).task = none → fl &&& (s.core n).traps ≠ 0 → EntersAtM s n 0x06 d →
    Completes (.fpOps ⟨n, []⟩ f) s fun t =>
      FlagsMerged s t n fl ∧ (t.core n).cr nCAUSE = 0x06 ∧ (t.core n).cr nTVAL = fl.setWidth 64 ∧
      (t.core n).arch.pc = d.handler &&& ~~~3 ∧ ∀ r, (t.core n).arch.rf r = (s.core n).arch.rf r

/-- R56, R89, R107: scalar floating point, and its traps. -/
def Obligations.FpInstructions : Prop := FpOpsWriteResult ∧ TrappingFlagKeepsDestination

/-- R104: rtx takes the pc, CORE_STATUS, g31, CORE_SLIM and CORE_PROGRESS back from the frame at g31, here in the SRAM;
CORE_STATUS.SPEC stays. -/
def RtxRestoresFrame : Prop :=
  ∀ (s : State) (n : Nat) (o : Nat) (w : Nat → W64), Issues s n 4 → (s.core n).pl = 3 → o % 64 = 0 → o + 64 ≤ 0x4000 →
    (s.core n).arch.rg 31 = BitVec.ofNat 64 (sramBase + o) →
    (∀ i, i < 8 → w i = BitVec.ofNat 64 (ofBytes ((List.range 8).map fun j => (s.core n).sramByte (o + 8 * i + j)))) →
    W64.fld (w 1) 1 0 ≠ 2 →
    Completes (.rtx ⟨n, []⟩) s fun t =>
      Retires s t n (w 0 &&& ~~~3) ∧ (t.core n).pl = W64.fld (w 1) 1 0 ∧ (t.core n).ie = (w 1).toNat.testBit 2 ∧
      (t.core n).nest = W64.fld (w 1) 23 16 ∧ (t.core n).spec = (s.core n).spec ∧ (t.core n).arch.rg 31 = w 5 ∧
      (t.core n).cr nSLIM = (w 6 &&& ~~~63) ∧ (t.core n).cr nPROGRESS = w 4 ∧
      RegsKept (s.core n).arch (t.core n).arch { g := [31], creg := [nSTATUS, nSLIM, nPROGRESS] }

/-- R98 to R107: taking a cause, and returning. -/
def Obligations.ExceptionsEnterAndReturn : Prop := TrapsEnterHandler ∧ RtxRestoresFrame

/-- R90, R281, R323: with no store outstanding, fence and cache.isync complete and change no register; so does fence.e
while the timebase is stopped, with CORE_PROGRESS.VALID cleared. -/
def FencesComplete : Prop :=
  ∀ (s : State) (n : Nat) (f : RF), Issues s n 4 → s.storesOut n = false →
    Completes (.fence ⟨n, []⟩) s (fun t => Retires s t n (s.pcAfter n 4) ∧ RegsKept (s.core n).arch (t.core n).arch {}) ∧
    (f.d = 0 → f.a = 0 → f.b = 0 → f.k = 0 → Completes (.cacheIsync ⟨n, []⟩ f) s fun t =>
      Retires s t n (s.pcAfter n 4) ∧ RegsKept (s.core n).arch (t.core n).arch {}) ∧
    (s.tb.mode = .stopped → Completes (.fenceE ⟨n, []⟩) s fun t =>
      Retires s t n (s.pcAfter n 4) ∧ RegsKept (s.core n).arch (t.core n).arch { creg := [nPROGRESS] } ∧
      ((t.core n).cr nPROGRESS).toNat.testBit 63 = false)

/-- R90, R117: fence.e issued while the timebase runs waits for a boundary: the pc stays. -/
def FenceEWaitsForBoundary : Prop :=
  ∀ (s : State) (n : Nat), Issues s n 4 → s.tb.mode ≠ .stopped → (s.core n).wait = .none → (s.core n).resumeAt 3 = none →
    Completes (.fenceE ⟨n, []⟩) s fun t =>
      (t.core n).wait = .fenceE s.tb.epoch ∧ (t.core n).arch = (s.core n).arch ∧ OnlyCore s t n

/-- R90, R117, R281: fences. -/
def Obligations.Fences : Prop := FencesComplete ∧ FenceEWaitsForBoundary

/-! ### Vector instructions -/

/-- An element-wise instruction that obeys R124 and whose flags do not trap. -/
structure EwRuns (s : State) (n len : Nat) (e : Ew) : Prop where
  issues : Issues s n len
  regs : if e.compares then badSrcs (e.srcs (s.core n).group) = false ∧ e.d < 8
    else badOps (e.dst (s.core n).group) (e.srcs (s.core n).group) = false
  rows : ∀ r, e.b = .rows r → r + (s.core n).group ≤ 512
  quiet : NoTrap s n (allFlags ((s.core n).ewOut e))

/-- What element `i` of an element-wise operation is (R139, R141, R144, R145). -/
def ewElem (c : Core) (e : Ew) (i : Nat) : Nat :=
  let w := e.fmt.regW
  let a := c.arch.el (vone e.a w) i
  let b := c.arch.bEl w e.b i
  if e.selects then (if (c.arch.rk e.k).toNat.testBit i then a else b)
  else if e.fmt.isInt then intElem e.op w a b
  else (fpElem e.op e.fmt (c.rndFor e.fmt) a b (if e.fused then c.arch.el (vone e.d w) i else 0)).1

/-- What an element-wise instruction leaves: element i of v[d] for every active i below n, or bit i of k[d] in a
comparison; inactive elements and every other register as they were; vsel writes every element below n. -/
def EwWrites (i : Instr) (s : State) (n len : Nat) (e : Ew) : Prop :=
  EwRuns s n len e → Completes i s fun t =>
    let c := s.core n
    let h := c.shape e.fmt.regW e.k
    let writes := fun j => j < h.n ∧ (e.selects ∨ h.mask.testBit j)
    Retires s t n (s.pcAfter n len) ∧ FlagsMerged s t n (allFlags (c.ewOut e)) ∧
    if e.compares then
      RegsKept c.arch (t.core n).arch { k := [e.d], creg := [nFPCSR] } ∧
      (e.d ≠ 0 → ∀ j, j < 8192 → ((t.core n).arch.rk e.d).getLsbD j =
        if writes j then decide (ewElem c e j = 1) else (c.arch.rk e.d).getLsbD j)
    else
      let d := e.dst c.group
      RegsKept c.arch (t.core n).arch { v := (List.range d.r).map (d.reg + ·), creg := [nFPCSR] } ∧
      ∀ j, j < vlMax c.group e.fmt.regW → (t.core n).arch.el d j =
        if writes j then ewElem c e j % 2 ^ e.fmt.regW else c.arch.el d j

/-- R123, R124, R139, R141, R144, R145: the floating-point and integer element-wise instructions in their 32-bit and long
forms, and the immediate forms, act element by element under VL, GROUP and the mask. -/
def Obligations.ElementWiseWritesActive : Prop :=
  ∀ (s : State) (n : Nat) (x : Ctx) (e : Ew), x = ⟨n, []⟩ →
    (∀ f : RF, fpShort (formR 0x28 f) = some e → EwWrites (.floatingPointElementWise x (.short f)) s n 4 e) ∧
    (∀ op f, fpLong op.toNat (formL op.toNat f) f.imm = some e →
      EwWrites (.floatingPointElementWise x (.long op f)) s n 8 e) ∧
    (∀ f : RF, intShort (formR 0x29 f) = some e → EwWrites (.integerElementWise x (.short f)) s n 4 e) ∧
    (∀ op f, intLong op.toNat (formL op.toNat f) f.imm = some e → EwWrites (.integerElementWise x (.long op f)) s n 8 e) ∧
    (∀ f : IF, fpImm (formI 0x2C f) f.imm = some e → EwWrites (.floatingPointImmediate x f) s n 4 e) ∧
    (∀ f : IF, intImm (formI 0x2D f) f.imm = some e → EwWrites (.integerImmediate x f) s n 4 e)

/-- What an instruction that maps the active elements of v[a] to those of v[d] leaves: `out` gives the result and the flags
of an active element. -/
def MapsElements (i : Instr) (s : State) (n len : Nat) (h : Shape) (d a : VOp) (out : Nat → Nat × Flags) : Prop :=
  let fl := allFlags (h.elems.map fun j => (j, out j))
  Issues s n len → badOps d [a] = false → NoTrap s n fl → Completes i s fun t =>
    let c := s.core n
    Retires s t n (s.pcAfter n len) ∧ FlagsMerged s t n fl ∧
    RegsKept c.arch (t.core n).arch { v := (List.range d.r).map (d.reg + ·), creg := [nFPCSR] } ∧
    ∀ j, j < d.r * 4096 / d.w → (t.core n).arch.el d j = if h.act j then (out j).1 % 2 ^ d.w else c.arch.el d j

/-- R61, R64, R65, R140, R142, R143: vfun in both forms computes the named function of each active element, vcvt and vcvt.sr convert
it, vscale gives its scale code. -/
def ConversionsMapActive : Prop :=
  ∀ (s : State) (n : Nat) (x : Ctx) (f : RF), x = ⟨n, []⟩ →
    let c := s.core n
    let op := fun (wmax : Nat) (r : BitVec 5) (w : Nat) => vop c.group wmax r.toNat w
    (∀ fm, fmtIn [0x0, 0x2, 0x3, 0x4] (f.func.toNat % 16) = some fm → f.b.toNat < 0x0F →
      MapsElements (.vfun x (.short f)) s n 4 (c.shape fm.regW f.k.toNat) (op fm.regW f.d fm.regW) (op fm.regW f.a fm.regW)
        fun j => vfunElem fm f.b.toNat (c.arch.el (op fm.regW f.a fm.regW) j)) ∧
    (∀ (l : BitVec 8) (g : LF) fm, fm = fpFmt2 (l.toNat % 4) → g.md = 0 → g.imm = 0 → g.b.toNat < 0x0F →
      MapsElements (.vfun x (.long l g)) s n 8 (c.shape fm.regW g.k.toNat) (op fm.regW g.d fm.regW) (op fm.regW g.a fm.regW)
        fun j => vfunElem fm g.b.toNat (c.arch.el (op fm.regW g.a fm.regW) j)) ∧
    (∀ src dst, cvtFmts (formR 0x2A f) = some (src, dst) →
      let w := max src.regW dst.regW
      MapsElements (.vcvt x f) s n 4 (c.shape w f.k.toNat) (op w f.d dst.regW) (op w f.a src.regW)
        (fun j => convertEnc src dst (c.arch.el (op w f.a src.regW) j) (c.cvtRnd src dst) c.nosat) ∧
      (f.func.toNat % 16 ∈ srTargets →
        MapsElements (.vcvtSr x f) s n 4 (c.shape w f.k.toNat) (op w f.d dst.regW) (op w f.a src.regW)
          fun j => convertEnc src dst (c.arch.el (op w f.a src.regW) j) (c.srFor j) c.nosat)) ∧
    (∀ fe, fmtIn [5, 6, 7, 8, 9] (f.func.toNat % 16) = some fe → (funcOp f = 8 ∨ funcOp f = 9) →
      let src : Fmt := if funcOp f = 9 then .bf16 else .f32
      MapsElements (.vscale x f) s n 4 (c.shape src.regW f.k.toNat) (op src.regW f.d 8) (op src.regW f.a src.regW)
        fun j => scaleOf src (c.arch.el (op src.regW f.a src.regW) j) fe)

/-- R49, R143: vquant quantises each active element under the code of its block of 32, or of element 0 in the per-tensor
forms, with the scale code of R48 taken from v[b]; inactive elements stay. -/
def QuantiseUsesBlockCode : Prop :=
  ∀ (s : State) (n : Nat) (f : RF) (fe : Fmt), Issues s n 4 → fmtIn [5, 6, 7, 8, 9] (f.func.toNat % 16) = some fe →
    funcOp f < 8 → (s.core n).traps = 0 → Unwatched s n →
    let c := s.core n
    let src : Fmt := if funcOp f ≥ 4 then .bf16 else .f32
    let h := c.shape src.regW f.k.toNat
    let a := vop c.group src.regW f.a.toNat src.regW
    let d := vop c.group src.regW f.d.toNat fe.regW
    badOps d [a] = false → Completes (.vquant ⟨n, []⟩ f) s fun t =>
      Retires s t n (s.pcAfter n 4) ∧
      RegsKept c.arch (t.core n).arch { v := (List.range d.r).map (d.reg + ·), creg := [nFPCSR] } ∧
      ∀ j, j < d.r * 4096 / d.w →
        (t.core n).arch.el d j =
          if h.act j then
            (quantElem src fe (c.arch.el a j)
              (scaleOf src (c.arch.el (vone f.b.toNat src.regW) (if (funcOp f).testBit 1 then 0 else j / 32)) fe).1
              (if (funcOp f).testBit 0 then c.srFor j else .rne)).1 % 2 ^ d.w
          else c.arch.el d j

/-- R60, R61, R139 to R146: conversions. -/
def Obligations.ConversionsAndQuantise : Prop := ConversionsMapActive ∧ QuantiseUsesBlockCode

/-- What an instruction that writes one element of one vector register leaves. -/
def WritesElement (i : Instr) (s : State) (n : Nat) (d w : Nat) (v : Nat) (fl : Flags) : Prop :=
  NoTrap s n fl → Completes i s fun t =>
    let c := s.core n
    Retires s t n (s.pcAfter n 4) ∧ FlagsMerged s t n fl ∧
    RegsKept c.arch (t.core n).arch { v := [d], creg := [nFPCSR] } ∧
    (t.core n).arch.el (vone d w) 0 = v % 2 ^ w ∧
    ∀ j, 0 < j → j < 4096 / w → (t.core n).arch.el (vone d w) j = c.arch.el (vone d w) j

/-- R47, R67 to R74, R147: vredsum, vredmax, vredmin, vdot and vamax.t write element 0 of v[d] and no other element. -/
def ReductionsWriteElementZero : Prop :=
  ∀ (s : State) (n : Nat) (x : Ctx) (f : RF), x = ⟨n, []⟩ → Issues s n 4 →
    let c := s.core n
    let r := c.arch
    let F := formR 0x2F f
    (∀ fm, fmtIn redFmts (F.func % 16) = some fm →
      let a := vop c.group fm.regW F.a fm.regW
      let h := c.shape fm.regW F.k
      let acc := sumAcc fm
      let sum := dotRef fm acc (r.el (vone F.b acc.hold.width) 0) (h.values fm r a) noScale
      let ext := fun m => extreme fm m (r.el (vone F.b fm.regW) 0) (h.elems.map fun i => r.el a i)
      (badOps (vone F.d acc.hold.width) [a] = false → WritesElement (.vredsum x f) s n F.d acc.hold.width sum.1 sum.2) ∧
      (badOps (vone F.d fm.regW) [a] = false →
        WritesElement (.vredmax x f) s n F.d fm.regW (ext true).1 (ext true).2 ∧
        WritesElement (.vredmin x f) s n F.d fm.regW (ext false).1 (ext false).2)) ∧
    (∀ fi fa, dotFmts F = some (fi, fa) →
      let a := vop c.group fi.regW F.a fi.regW
      let b := vop c.group fi.regW F.b fi.regW
      let h := c.shape fi.regW F.k
      let ps := (List.range h.n).map fun i =>
        if h.act i then ((fi.value (r.el a i)).mul (fi.value (r.el b i))).1 else posZero
      let v := dotRef fi fa (r.el (vone F.d fa.hold.width) 0) ps noScale
      badOps (vone F.d fa.hold.width) [a, b] = false → WritesElement (.vdot x f) s n F.d fa.hold.width v.1 v.2) ∧
    (∀ fm, amaxFmt (formR 0x2A f) = some fm →
      let a := vop c.group fm.regW F.a fm.regW
      let h := c.shape fm.regW F.k
      let v := amax fm ((r.el (vone F.d fm.regW) 0, true) :: (List.range h.n).map fun i => (r.el a i, h.act i))
      badOps (vone F.d fm.regW) [a] = false → 0 < h.n → WritesElement (.vamaxT x f) s n F.d fm.regW v.1 v.2)

/-- R47, R142: vamax.mx writes element j of v[d] with the amax of the active elements of block j, for every block that begins
below n. -/
def AmaxPerBlock : Prop :=
  ∀ (s : State) (n : Nat) (f : RF) (fm : Fmt), Issues s n 4 → amaxFmt (formR 0x2A f) = some fm → (s.core n).traps = 0 →
    Unwatched s n →
    let c := s.core n
    let a := vop c.group fm.regW f.a.toNat fm.regW
    let d := vone f.d.toNat fm.regW
    let h := c.shape fm.regW f.k.toNat
    badOps d [a] = false → Completes (.vamaxMx ⟨n, []⟩ f) s fun t =>
      Retires s t n (s.pcAfter n 4) ∧ RegsKept c.arch (t.core n).arch { v := [f.d.toNat], creg := [nFPCSR] } ∧
      ∀ j, j < 4096 / fm.regW → (t.core n).arch.el d j =
        if 32 * j < h.n then
          (amax fm ((List.range 32).map fun i => (c.arch.el a (32 * j + i), h.act (32 * j + i)))).1 % 2 ^ fm.regW
        else c.arch.el d j

/-- R75: vsmax writes every position below n of v[d], masked ones included, by the row conditions of R75. -/
def SoftmaxWritesRow : Prop :=
  ∀ (s : State) (n : Nat) (f : RF) (fm : Fmt), Issues s n 4 → fmtIn [0x0, 0x2, 0x3, 0x4] (f.func.toNat % 16) = some fm →
    let c := s.core n
    let a := vop c.group fm.regW f.a.toNat fm.regW
    let d := vop c.group fm.regW f.d.toNat fm.regW
    let h := c.shape fm.regW f.k.toNat
    let row := (List.range h.n).map fun i => (c.arch.el a i, h.act i)
    badOps d [a] = false → NoTrap s n (smaxRow fm row).2 → Completes (.vsmax ⟨n, []⟩ f) s fun t =>
      Retires s t n (s.pcAfter n 4) ∧ FlagsMerged s t n (smaxRow fm row).2 ∧
      RegsKept c.arch (t.core n).arch { v := (List.range d.r).map (d.reg + ·), creg := [nFPCSR] } ∧
      (∀ j, j < h.n → (t.core n).arch.el d j = (smaxRow fm row).1.getD j 0 % 2 ^ fm.regW) ∧
      (∀ j, h.n ≤ j → j < d.r * 4096 / d.w → (t.core n).arch.el d j = c.arch.el d j) ∧
      ((∃ p ∈ row, p.2 = true ∧ (fm.value p.1).isNan = true) →
        ∀ j, j < h.n → (t.core n).arch.el d j = fm.nan % 2 ^ fm.regW)

/-- R47, R73 to R76, R143: reductions, block maxima and softmax. -/
def Obligations.ReductionsAndSoftmax : Prop := ReductionsWriteElementZero ∧ AmaxPerBlock ∧ SoftmaxWritesRow

/-- R120, R147: kand, kor, kxor and knot act on all 8,192 bits, k0 discarding a write and reading as ones; kpop counts the
ones below VL. -/
def MaskOperations : Prop :=
  ∀ (s : State) (n : Nat) (x : Ctx) (f : RF), x = ⟨n, []⟩ → Issues s n 4 → f.func.toNat % 16 = 0 → f.a.toNat < 8 →
    let a := (s.core n).arch
    let writes := fun (i : Instr) (v : KReg) => Completes i s fun t =>
      Retires s t n (s.pcAfter n 4) ∧ RegsKept a (t.core n).arch { k := [f.d.toNat] } ∧
      (t.core n).arch.rk f.d.toNat = if f.d = 0 then BitVec.allOnes 8192 else v
    (f.d.toNat < 8 → writes (.knot x f) (~~~ a.rk f.a.toNat)) ∧
    (f.d.toNat < 8 → f.b.toNat < 8 →
      writes (.kand x f) (a.rk f.a.toNat &&& a.rk f.b.toNat) ∧ writes (.kor x f) (a.rk f.a.toNat ||| a.rk f.b.toNat) ∧
      writes (.kxor x f) (a.rk f.a.toNat ^^^ a.rk f.b.toNat)) ∧
    ImmediateWrites (.kpop x f) s n (formR 0x2F f)
      (BitVec.ofNat 64 ((List.range (s.core n).vl).filter fun i => (a.rk f.a.toNat).toNat.testBit i).length)

/-- R126: vstrip sets the group where b says so, then VL to the least of the count and VLMAX, then g[d] to VL and g[a] to
what remains. -/
def VstripSetsLength : Prop :=
  ∀ (s : State) (n : Nat) (f : RF) (fm : Fmt), Issues s n 4 → f.k = 0 → f.b.toNat < 8 → f.func.toNat % 16 ≠ 1 →
    fmtOf (f.func.toNat % 16) = some fm → f.a ≠ 0 →
    Completes (.vstrip ⟨n, []⟩ f) s fun t =>
      let c := s.core n
      let g := if f.b.toNat < 4 then c.group else 2 ^ (f.b.toNat % 4)
      let count := (c.arch.rg f.a.toNat).toNat
      let vl := min count (g * 4096 / fm.regW)
      Retires s t n (s.pcAfter n 4) ∧ (t.core n).group = g ∧ (t.core n).vl = vl ∧
      (t.core n).arch.rg f.a.toNat = BitVec.ofNat 64 (count - vl) ∧
      (f.d ≠ f.a → f.d ≠ 0 → (t.core n).arch.rg f.d.toNat = BitVec.ofNat 64 vl) ∧
      RegsKept c.arch (t.core n).arch { g := [f.d.toNat, f.a.toNat], creg := [nVCTRL] }

/-- R147: vbcastf writes f[a], rounded, or the low bits of g[a] to the active elements; vext reads element g[b] mod VLMAX
of v[a] into f[d], widened, or g[d], sign-extended. -/
def BroadcastAndExtract : Prop :=
  ∀ (s : State) (n : Nat) (x : Ctx) (f : RF) (fm : Fmt), x = ⟨n, []⟩ → Issues s n 4 →
    fmtIn redFmts (f.func.toNat % 16) = some fm →
    let c := s.core n
    let w := fm.regW
    let h := c.shape w f.k.toNat
    let d := vop c.group w f.d.toNat w
    let a := vop c.group w f.a.toNat w
    let v : Nat × Flags := if fm.isInt then ((c.arch.rg f.a.toNat).toNat % 2 ^ w, 0)
      else if fm = .f64 then ((c.arch.rf f.a.toNat).toNat, 0)
      else convertEnc .f64 fm (c.arch.rf f.a.toNat).toNat (c.rndFor fm) c.nosat
    let e := c.arch.el a ((c.arch.rg f.b.toNat).toNat % vlMax c.group w)
    (d.odd = false → NoTrap s n v.2 → Completes (.vbcastf x f) s fun t =>
      Retires s t n (s.pcAfter n 4) ∧
      RegsKept c.arch (t.core n).arch { v := (List.range d.r).map (d.reg + ·), creg := [nFPCSR] } ∧
      ∀ j, j < d.r * 4096 / d.w → (t.core n).arch.el d j = if h.act j then v.1 % 2 ^ w else c.arch.el d j) ∧
    (a.odd = false → Completes (.vext x f) s fun t =>
      Retires s t n (s.pcAfter n 4) ∧
      RegsKept c.arch (t.core n).arch (if fm.isInt then { g := [f.d.toNat] } else { f := [f.d.toNat] }) ∧
      (fm.isInt = true → (t.core n).arch.rg f.d.toNat = if f.d = 0 then 0 else BitVec.ofInt 64 (sint w e)) ∧
      (fm.isInt = false → (t.core n).arch.rf f.d.toNat = BitVec.ofNat 64 (widenBits fm .f64 e)))

/-- R126, R147: mask operations, vector length, broadcast and extract. -/
def Obligations.MasksAndLengths : Prop := MaskOperations ∧ VstripSetsLength ∧ BroadcastAndExtract

/-- R134, R136: vsget copies G Sorrel rows from row g[a] to v[d], an empty row as zeros; vsput copies v[d] to them, and they
are valid. -/
def SorrelMovesRows : Prop :=
  ∀ (s : State) (n : Nat) (x : Ctx) (f : RF), x = ⟨n, []⟩ → Issues s n 4 → f.func.toNat % 16 = 0 → f.k = 0 → f.b = 0 →
    let c := s.core n
    let row := (c.arch.rg f.a.toNat).toNat
    f.d.toNat % c.group = 0 → row + c.group ≤ 512 →
    Completes (.vsget x f) s (fun t =>
      Retires s t n (s.pcAfter n 4) ∧
      RegsKept c.arch (t.core n).arch { v := (List.range c.group).map (f.d.toNat + ·) } ∧
      ∀ i, i < c.group → (t.core n).arch.rv (f.d.toNat + i) = c.arch.row (row + i)) ∧
    Completes (.vsput x f) s fun t =>
      Retires s t n (s.pcAfter n 4) ∧ RegsKept c.arch (t.core n).arch { rows := (List.range c.group).map (row + ·) } ∧
      ∀ i, i < c.group → Tab.get none (t.core n).arch.sorrel (row + i) = some (c.arch.rv (f.d.toNat + i))

/-- R136: an access to a Sorrel row of 512 or above raises cause 0x30 with the first such row in CORE_TVAL; nothing moves. -/
def SorrelRangeTraps : Prop :=
  ∀ (s : State) (n : Nat) (x : Ctx) (f : RF) (d : Desc), x = ⟨n, []⟩ → Issues s n 4 → f.func.toNat % 16 = 0 → f.k = 0 →
    f.b = 0 → f.d.toNat % (s.core n).group = 0 → EntersAtM s n 0x30 d →
    let row := ((s.core n).arch.rg f.a.toNat).toNat
    512 < row + (s.core n).group →
    (Completes (.vsget x f) s fun t => Entered s t n 0x30 (BitVec.ofNat 64 (max row 512)) d) ∧
    (Completes (.vsput x f) s fun t => Entered s t n 0x30 (BitVec.ofNat 64 (max row 512)) d)

/-- R134 to R136: Sorrel rows. -/
def Obligations.SorrelInstructions : Prop := SorrelMovesRows ∧ SorrelRangeTraps


/-! ### Vector memory -/

/-- Core `n` can load every byte of a span at once. -/
def SpanReady (s : State) (n a len : Nat) : Prop := ∀ k, k < len → Readable s n (a + k) 1 ∧ InL1 s n (a + k)

/-- The bits of a part among bytes. -/
def partBits (get : Nat → Byte) (fm : Fmt) (p : Part) : Nat :=
  (ofBytes ((List.range p.len).map fun k => get (p.va + k)) >>> p.off) % 2 ^ fm.width

/-- What a load of elements leaves: every active element of v[d] holds its part of memory, widened where it is LF48; the
others stay. -/
def ElementsLoaded (i : Instr) (s : State) (n : Nat) (fm : Fmt) (h : Shape) (d : VOp) (part : Nat → Part) : Prop :=
  (∀ j ∈ h.elems, SpanReady s n (part j).va (part j).len) → Completes i s fun t =>
    Retires s t n (s.pcAfter n 4) ∧
    RegsKept (s.core n).arch (t.core n).arch { v := (List.range d.r).map (d.reg + ·), creg := [nPROGRESS] } ∧
    ∀ j, j < d.r * 4096 / d.w → (t.core n).arch.el d j =
      if h.act j then regBits fm (partBits s.byte fm (part j)) else (s.core n).arch.el d j

/-- R128, R129, R131, R133, R134, R147: loads of the vector unit that meet no cause. vld and vldff load element i from its
place behind g[a] + g[b], vgat under the index in element i of v[b]; kld loads k[d] and vsfill whole Sorrel rows. -/
def Obligations.VectorLoadsReadMemory : Prop :=
  ∀ (s : State) (n : Nat) (x : Ctx) (f : RF), x = ⟨n, []⟩ → Issues s n 4 → (s.core n).resumeAt 2 = none →
    let c := s.core n
    let base := c.arch.rg f.a.toNat
    (∀ fm, fmtOf (f.func.toNat % 16) = some fm →
      let h := c.shape fm.regW f.k.toNat
      let d := vop c.group fm.regW f.d.toNat fm.regW
      let part := memPart fm (base + c.arch.rg f.b.toNat).toNat
      d.odd = false → ElementsLoaded (.vld x f) s n fm h d part ∧ ElementsLoaded (.vldff x f) s n fm h d part) ∧
    (∀ fm, fmtIn gatFmts (f.func.toNat % 16) = some fm →
      let w := max 32 fm.regW
      let h := c.shape w f.k.toNat
      let d := vop c.group w f.d.toNat fm.regW
      let b := vop c.group w f.b.toNat 32
      badOps d [b] = false → ElementsLoaded (.vgat x f) s n fm h d fun j => gatPart fm base (c.arch.el b j) j) ∧
    (f.func.toNat % 16 = 0 → f.d.toNat < 8 → SpanReady s n base.toNat 1024 → Completes (.kld x f) s fun t =>
      Retires s t n (s.pcAfter n 4) ∧ RegsKept c.arch (t.core n).arch { k := [f.d.toNat] } ∧
      (t.core n).arch.rk f.d.toNat = if f.d = 0 then BitVec.allOnes 8192 else BitVec.ofNat 8192 (s.num base.toNat 1024)) ∧
    (f.func.toNat % 16 = 0 → f.k = 0 →
      let row := (c.arch.rg f.d.toNat).toNat
      let count := (c.arch.rg f.b.toNat).toNat
      row + count ≤ 512 → SpanReady s n base.toNat (512 * count) → Completes (.vsfill x f) s fun t =>
        Retires s t n (s.pcAfter n 4) ∧
        RegsKept c.arch (t.core n).arch { rows := (List.range count).map (row + ·), creg := [nPROGRESS] } ∧
        ∀ i, i < count → Tab.get none (t.core n).arch.sorrel (row + i) =
          some (BitVec.ofNat 4096 (s.num (base.toNat + 512 * i) 512)))

/-- The bytes of local memory as core `n` sees them. -/
def seen (s : State) (n a : Nat) : Byte := (s.seeByte n a).1

/-- What a store by core `n` leaves where it meets no cause: `at_` holds of the bytes that the core then sees, and every
byte that is not `inside` is seen as before; registers stay. -/
def StoredAt (i : Instr) (s : State) (n : Nat) (fl : Flags) (inside : Nat → Prop) (at_ : (Nat → Byte) → Prop) : Prop :=
  Completes i s fun t =>
    (t.core n).arch.pc = s.pcAfter n 4 ∧ (t.core n).wait = .none ∧ FlagsMerged s t n fl ∧
    RegsKept (s.core n).arch (t.core n).arch { creg := [nFPCSR, nPROGRESS] } ∧
    OthersKept s t n ∧ at_ (seen t n) ∧ ∀ a, ¬ inside a → seen t n a = seen s n a

/-- A byte of a part. -/
def inPart (p : Part) (a : Nat) : Prop := p.va ≤ a ∧ a < p.va + p.len

/-- R43, R128, R132, R133, R147: stores of the vector unit that meet no cause. vst stores every active element at its place
behind g[a] + g[b], inactive neighbours in a byte keeping their bits; vsct stores in rising order, so that the last
element at a byte stays there; kst stores k[d]. -/
def Obligations.VectorStoresWriteElements : Prop :=
  ∀ (s : State) (n : Nat) (x : Ctx) (f : RF), x = ⟨n, []⟩ → Issues s n 4 → (s.core n).resumeAt 2 = none → StacksQuiet s →
    let c := s.core n
    let base := c.arch.rg f.a.toNat
    let ready := fun (es : List StElem) =>
      (∀ e ∈ es, ∀ k, k < e.part.len → Readable s n (e.part.va + k) 1) ∧ NoTrap s n (stFlags es)
    (∀ fm, fmtOf (f.func.toNat % 16) = some fm →
      let h := c.shape fm.regW f.k.toNat
      let d := vop c.group fm.regW f.d.toNat fm.regW
      let part := memPart fm (base + c.arch.rg f.b.toNat).toNat
      let el := fun j => stElem fm (part j) (c.arch.el d j)
      let es := h.elems.map el
      d.odd = false → ready es → StoredAt (.vst x f) s n (stFlags es) (fun a => ∃ j ∈ h.elems, inPart (part j) a) fun get =>
        ∀ j, j < 65536 → partBits get fm (part j) = if h.act j then (el j).code else partBits (seen s n) fm (part j)) ∧
    (∀ fm, fmtIn gatFmts (f.func.toNat % 16) = some fm →
      let w := max 32 fm.regW
      let h := c.shape w f.k.toNat
      let d := vop c.group w f.d.toNat fm.regW
      let b := vop c.group w f.b.toNat 32
      let part := fun j => gatPart fm base (c.arch.el b j) j
      let el := fun j => stElem fm (part j) (c.arch.el d j)
      let es := h.elems.map el
      badSrcs [d, b] = false → ready es →
        StoredAt (.vsct x f) s n (stFlags es) (fun a => ∃ j ∈ h.elems, inPart (part j) a) fun get =>
          ∀ j ∈ h.elems, ∀ k, k < (part j).len →
            (∀ i ∈ h.elems, j < i → ¬ inPart (part i) ((part j).va + k)) →
            get ((part j).va + k) = BitVec.ofNat 8 ((el j).code >>> (8 * k))) ∧
    (f.func.toNat % 16 = 0 → f.d.toNat < 8 → (∀ k, k < 1024 → Readable s n (base.toNat + k) 1) →
      StoredAt (.kst x f) s n 0 (fun a => base.toNat ≤ a ∧ a < base.toNat + 1024) fun get =>
        ∀ k, k < 1024 → get (base.toNat + k) = BitVec.ofNat 8 ((c.arch.rk f.d.toNat).toNat >>> (8 * k)))

/-! ### Tiles -/

/-- A tile has a shape of R152 or none. -/
def Shaped (t : Tile) : Prop := t.nRows ≤ 64 ∧ t.rowB ≤ 256

/-- R159 to R161, R163: tload fills every row of a configured tile from g[a] + imm + r × g[b], tload.lf48 widening rows of
six-byte elements; the tile is valid and no row of it is poisoned. -/
def TileLoadsFillRows : Prop :=
  ∀ (s : State) (n : Nat) (f : RL) (F : Form), F = formTile f → F.bad = false → F.d < 16 → Issues s n F.len →
    (s.core n).resumeAt 1 = none →
    let c := s.core n
    let t0 := c.arch.tile F.d
    let addr := rowAddr c.arch F (tileImm f)
    let fills := fun (i : Instr) (len : Nat) (rows : Tile → Prop) =>
      (∀ r, r < t0.nRows → SpanReady s n (addr r) len) → Completes i s fun t =>
        Passes s t n (s.pcAfter n F.len) ∧ RegsKept c.arch (t.core n).arch { tiles := [F.d], creg := [nPROGRESS] } ∧
        let t1 := (t.core n).arch.tile F.d
        t1.cfg = t0.cfg ∧ t1.valid = true ∧ (∀ r, r < t0.nRows → t1.poisoned r = false) ∧ rows t1
    t0.configured = true → Shaped t0 → 0 < t0.nRows →
    (fills (.tload ⟨n, []⟩ f) t0.rowB fun t1 => ∀ r k, r < t0.nRows → k < t0.rowB → byteAt (t1.row r) k = s.byte (addr r + k)) ∧
    (t0.rowB % 8 = 0 → fills (.tloadLf48 ⟨n, []⟩ f) (6 * t0.rowB / 8) fun t1 =>
      ∀ r i, r < t0.nRows → i < t0.rowB / 8 → rowEl (t1.row r) 64 i = widenLf48 (s.num (addr r + 6 * i) 6))

/-- R159 to R161: tstore and tstore.lf48 store the rows in rising order, so that the higher row remains where rows
overlap; no row here is poisoned. -/
def TileStoresWriteRows : Prop :=
  ∀ (s : State) (n : Nat) (f : RL) (F : Form), F = formTile f → F.bad = false → F.d < 16 → Issues s n F.len →
    (s.core n).resumeAt 1 = none → StacksQuiet s →
    let c := s.core n
    let t0 := c.arch.tile F.d
    let addr := rowAddr c.arch F (tileImm f)
    let rows := List.range t0.nRows
    let stores := fun (i : Instr) (len : Nat) (row : Nat → List Byte) (fl : Flags) =>
      (∀ r ∈ rows, ∀ k, k < len → Readable s n (addr r + k) 1) → NoTrap s n fl → Completes i s fun t =>
        (t.core n).arch.pc = s.pcAfter n F.len ∧ (t.core n).wait = .none ∧ FlagsMerged s t n fl ∧
        RegsKept c.arch (t.core n).arch { creg := [nFPCSR, nPROGRESS] } ∧
        (∀ r ∈ rows, ∀ k, k < len →
          (∀ q ∈ rows, r < q → ¬ (addr q ≤ addr r + k ∧ addr r + k < addr q + len)) →
          seen t n (addr r + k) = (row r).getD k 0) ∧
        ∀ a, (∀ r ∈ rows, ¬ (addr r ≤ a ∧ a < addr r + len)) → seen t n a = seen s n a
    t0.configured = true → Shaped t0 → (∀ r ∈ rows, t0.poisoned r = false) →
    stores (.tstore ⟨n, []⟩ f) t0.rowB (fun r => bytesOf t0.rowB (t0.row r).toNat) 0 ∧
    (t0.rowB % 8 = 0 → stores (.tstoreLf48 ⟨n, []⟩ f) (6 * t0.rowB / 8) (fun r => (narrowRow t0.rowB (t0.row r)).1)
      (rows.foldl (fun (fl : Flags) r => fl ||| (narrowRow t0.rowB (t0.row r)).2) 0))

/-- R159 to R163: tile loads and stores. -/
def Obligations.TileMemory : Prop := TileLoadsFillRows ∧ TileStoresWriteRows

/-- R137, R154, R157: vtget reads and vtput writes the positions of a tile, or pair, from row g[b] on, row by row; vtput makes
its members valid. -/
def Obligations.TileMovesCopyElements : Prop :=
  ∀ (s : State) (n : Nat) (f : RF) (fm : Fmt) (rows per : Nat) (pair : Bool), Issues s n 4 → f.a.toNat < 16 →
    moveFmt (formR 0x2E f) = some fm →
    let c := s.core n
    let t := f.a.toNat
    let h := c.shape fm.regW f.k.toNat
    let d := vop c.group fm.regW f.d.toNat fm.regW
    let row0 := (c.arch.rg f.b.toNat).toNat
    let pos := fun j => (row0 + j / per, j % per)
    d.odd = false → c.arch.tileView t fm = some (rows, per, pair) → (∀ m ∈ members t pair, Shaped (c.arch.tile m)) →
    (pair = true → (c.arch.tile (t + 1)).rowB = (c.arch.tile t).rowB) → h.elems ≠ [] → (∀ j ∈ h.elems, (pos j).1 < rows) →
    ((∀ j ∈ h.elems, ((c.arch.tile (tileCol t per pair (pos j).2).1).poisoned (pos j).1) = false) →
      Completes (.vtget ⟨n, []⟩ f) s fun u =>
        Retires s u n (s.pcAfter n 4) ∧
        RegsKept c.arch (u.core n).arch { v := (List.range d.r).map (d.reg + ·) } ∧
        ∀ j, j < d.r * 4096 / d.w → (u.core n).arch.el d j =
          if h.act j then c.arch.tileEl t per pair fm.width (pos j).1 (pos j).2 else c.arch.el d j) ∧
    Completes (.vtput ⟨n, []⟩ f) s fun u =>
      Passes s u n (s.pcAfter n 4) ∧ RegsKept c.arch (u.core n).arch { tiles := members t pair } ∧
      (∀ m ∈ members t pair, ((u.core n).arch.tile m).valid = true ∧ ((u.core n).arch.tile m).cfg = (c.arch.tile m).cfg) ∧
      (∀ j ∈ h.elems, (u.core n).arch.tileEl t per pair fm.width (pos j).1 (pos j).2 = c.arch.el d j % 2 ^ fm.width) ∧
      ∀ r k, r < rows → k < per → (∀ j ∈ h.elems, pos j ≠ (r, k)) →
        (u.core n).arch.tileEl t per pair fm.width r k = c.arch.tileEl t per pair fm.width r k

/-- R151, R152, R155, R158: trel and trel.m empty the tiles they name and keep their shapes; tcfg gives each tile the shape
that its nibble of g[a] selects, or none, empty; a nibble that breaks a rule raises 0x31 with the first such tile and changes
no tile. -/
def Obligations.TileShapesSet : Prop :=
  ∀ (s : State) (n : Nat) (x : Ctx) (f : RF), x = ⟨n, []⟩ → Issues s n 4 → f.k = 0 → f.b = 0 →
    let c := s.core n
    let v := c.arch.rg f.a.toNat
    let emptied := fun (i : Instr) (p : Nat → Prop) => Completes i s fun t =>
      Passes s t n (s.pcAfter n 4) ∧ RegsKept c.arch (t.core n).arch { tiles := List.range 16 } ∧
      ∀ m, m < 16 → (p m → (t.core n).arch.tile m = (c.arch.tile m).emptied) ∧
        (¬ p m → (t.core n).arch.tile m = c.arch.tile m)
    (f.d.toNat < 16 → f.a = 0 → emptied (.trel x f) fun m => m = f.d.toNat) ∧
    (f.d = 0 → emptied (.trelM x f) fun m => v.toNat.testBit m = true) ∧
    (f.d = 0 → (∀ i, i < 16 → badNibble v (fun k => c.arch.cr (0x204 + k)) i = false) → Completes (.tcfg x f) s fun t =>
      Passes s t n (s.pcAfter n 4) ∧
      RegsKept c.arch (t.core n).arch { tiles := List.range 16, creg := [0x201, nPROGRESS] } ∧
      (t.core n).cr 0x201 = v ∧
      ∀ i, i < 16 →
        let nib := W64.fld v (4 * i + 3) (4 * i)
        let t1 := (t.core n).arch.tile i
        let sh := c.arch.cr (0x204 + nib % 4)
        t1.valid = false ∧ (∀ r, t1.row r = 0) ∧ t1.poison = 0 ∧ t1.configured = decide (8 ≤ nib) ∧
        (8 ≤ nib → t1.nRows = W64.fld sh 23 16 ∧ t1.rowB = W64.fld sh 8 0 ∧ t1.pair = nib.testBit 2)) ∧
    (∀ i d, f.d = 0 → i < 16 → badNibble v (fun k => c.arch.cr (0x204 + k)) i = true →
      (∀ j, j < i → badNibble v (fun k => c.arch.cr (0x204 + k)) j = false) → EntersAtM s n 0x31 d →
      Completes (.tcfg x f) s fun t => Entered s t n 0x31 (BitVec.ofNat 64 i) d)

/-! ### Matrix operations -/

/-- No error in a block sum. -/
def noErr : SumErr := fun _ _ _ => none

/-- Output (r, q) of a tile operation on the registers `a` (R67 to R72, R179). -/
def mmaOutput (a : Arch) (m : MmaArgs) (sh : MmaShape) (r q : Nat) : Nat :=
  ((a.mmaAll m sh noErr).1.getD r []).getD q 0 % 2 ^ (if m.pairAcc then 64 else 32)

/-- What the issue of a tile operation leaves: with M and N above 1 an unsettled operation that holds its operands as they
stand; with M or N of 1 the outputs at once, on the dot units. -/
def MmaIssues (i : Instr) (s : State) (n len : Nat) (m : MmaArgs) : Prop :=
  ∀ sh, Issues s n len → m.ok = true → (s.core n).arch.mmaShape m = .inr sh →
    let a := (s.core n).arch
    (sh.m ≠ 1 → sh.n ≠ 1 → Completes i s fun t =>
      OnlyCore s t n ∧ (t.core n).arch.pc = s.pcAfter n len ∧ (t.core n).wait = .none ∧ RegsKept a (t.core n).arch {} ∧
      ∃ o, (t.core n).tops = [o] ∧ o.args = m ∧ o.pc = a.pc ∧ o.stat = .waiting ∧ o.runs = [] ∧ o.snap = a) ∧
    (sh.m = 1 ∨ sh.n = 1 → a.mmaPoison m sh = none → Shaped (a.tile m.c) → Shaped (a.tile (m.c + 1)) →
      NoTrap s n (a.mmaAll m sh noErr).2 → Completes i s fun t =>
        Passes s t n (s.pcAfter n len) ∧ FlagsMerged s t n (a.mmaAll m sh noErr).2 ∧
        RegsKept a (t.core n).arch { tiles := m.writes, creg := [nFPCSR] } ∧ (t.core n).tops = [] ∧
        (sh.len = 0 → m.z = false → ∀ k, (t.core n).arch.tile k = a.tile k) ∧
        (0 < sh.len ∨ m.z = true → ∀ r q, r < sh.m → q < sh.n →
          (t.core n).arch.tileEl m.c sh.n m.pairAcc (if m.pairAcc then 64 else 32) r q = mmaOutput a m sh r q))

/-- R178, R181, R185, R186, R198: tmma and tmma.x. -/
def Obligations.TileOperationsIssue : Prop :=
  ∀ (s : State) (n : Nat),
    (∀ f : RF, f.k = 0 → f.func.toNat % 2 = 0 → f.func.toNat / 16 ≠ 0xA → f.func.toNat / 16 ≠ 0xB →
      MmaIssues (.tmma ⟨n, []⟩ f) s n 4 (mmaShort f)) ∧
    (∀ f : LF, f.imm.toNat.testBit 31 = false → MmaIssues (.tmmaX ⟨n, []⟩ f) s n 8 (mmaLong f))

/-- The parts of a tmv that stand in registers and memory, and what it computes for output `j` (R199, R201). -/
def tmvOutput (s : State) (c : Core) (t : Tmv) (F : Form) (j : Nat) : Nat × Flags :=
  let r := c.arch
  let xs : VOp := ⟨F.b, t.fmt.regW, c.group⟩
  let d : VOp := ⟨F.d, t.acc.hold.width, c.group⟩
  let nb := (t.k + 31) / 32
  let row := s.bytesAt (r.rg F.a + BitVec.ofNat 64 (j * t.stride)).toNat ((t.k * t.fmt.width + 7) / 8)
  let codes := s.bytesAt (r.rg (F.a + 1) + BitVec.ofNat 64 (j * nb)).toNat nb
  let x := fun i => if t.fmt = .lf48 then (asLf48 (r.el xs i)).1 else r.el xs i
  let ps := products ((List.range t.k).map fun i => t.fmt.held.value (x i)) (unpackRow t.fmt t.k row)
  let scale := fun b =>
    if t.mx then bothScales (scaleExp (r.el (vone (F.b + c.group) 8) b)) (scaleExp (codes.getD b 0).toNat) else some 0
  let c0 : Nat × Flags := if t.z then (0, 0) else if t.acc = .lf48 ∧ t.k ≠ 0 then asLf48 (r.el d j) else (r.el d j, 0)
  let v := dotRef t.fmt t.acc c0.1 ps scale
  (v.1, v.2 ||| c0.2)

/-- Flags of reading the vector of a tmv as LF48 (R180). -/
def tmvReadFlags (c : Core) (t : Tmv) (F : Form) : Flags :=
  if t.fmt = .lf48 then (List.range t.k).foldl (fun fl i => fl ||| (asLf48 (c.arch.el ⟨F.b, t.fmt.regW, c.group⟩ i)).2) 0 else 0

/-- R199 to R201: tmv and tmv.mx write the dot product of row j of W with the vector to every active output j, under the
block scales in tmv.mx; the other outputs stay. -/
def Obligations.MatrixVectorWritesOutputs : Prop :=
  ∀ (s : State) (n : Nat) (fi : BitVec 4) (f : LF) (mx : Bool) (t : Tmv), Issues s n 8 → tmvArgs fi.toNat f mx = some t →
    let c := s.core n
    let F := formL ((if mx then 0xE0 else 0xD0) + fi.toNat) f
    let d : VOp := ⟨F.d, t.acc.hold.width, c.group⟩
    let xs : VOp := ⟨F.b, t.fmt.regW, c.group⟩
    let h := c.shape t.acc.hold.width F.k
    let apart := fun (o : VOp) => d.reg + d.r ≤ o.reg ∨ o.reg + o.r ≤ d.reg
    let nb := (t.k + 31) / 32
    let fl := (if h.elems.isEmpty then 0 else tmvReadFlags c t F) |||
      h.elems.foldl (fun (fl : Flags) j => fl ||| (tmvOutput s c t F j).2) 0
    d.odd = false → xs.odd = false → apart xs → t.k ≤ c.group * 4096 / t.fmt.regW →
    (mx = true → F.a ≤ 30 ∧ F.b + c.group ≤ 31 ∧ apart (vone (F.b + c.group) 8)) →
    (∀ j ∈ h.elems, SpanReady s n (c.arch.rg F.a + BitVec.ofNat 64 (j * t.stride)).toNat ((t.k * t.fmt.width + 7) / 8) ∧
      (mx = true → SpanReady s n (c.arch.rg (F.a + 1) + BitVec.ofNat 64 (j * nb)).toNat nb)) →
    NoTrap s n fl → Completes (if mx then .tmvMx ⟨n, []⟩ fi f else .tmv ⟨n, []⟩ fi f) s fun u =>
      Passes s u n (s.pcAfter n 8) ∧ FlagsMerged s u n fl ∧
      RegsKept c.arch (u.core n).arch { v := (List.range d.r).map (d.reg + ·), creg := [nFPCSR] } ∧
      ∀ j, j < d.r * 4096 / d.w → (u.core n).arch.el d j =
        if h.act j then (tmvOutput s c t F j).1 % 2 ^ d.w else c.arch.el d j

/-- R188, R192, R195, R204, R206, R208: a tile operation from its start to its end. A start gives it the engine that R192 picks,
or, where no engine of the cluster is in service, its result on the dot units; a run that passes its checks gives its result; a
replay in turn takes its engine. -/
def TileOperationsRun : Prop :=
  ∀ (s : State) (n e half : Nat) (o : TileOp) (r : EngRun) (up : List Upset),
    (n < Config.cores → (s.core n).nextOp = some o → (clusterEngines (8 * n)).any (fun e => (s.eng e).ok) = false →
      o.snap.mmaPoison o.args o.shape = none → Completes (.tmmaStart ⟨n, up⟩) s fun t =>
        ((t.core n).top o.seq).map TileOp.stat = some (.ended (o.dotEnd (s.core n) up)) ∧
        (t.core n).mvOps = (s.core n).mvOps + 1 ∧ SameBytes s t) ∧
    (n < Config.cores → (s.core n).nextOp = some o → (clusterEngines (8 * n)).any (fun e => (s.eng e).ok) = true →
      s.placeMma n o = [e] → Completes (.tmmaStart ⟨n, up⟩) s fun t =>
        (∃ o', (t.core n).top o.seq = some o' ∧ o'.stat = .running ∧ o'.due = 1) ∧
        (t.eng e).run (s.eng e).half = some ⟨n, o.seq, false, o.checkedAt (s.eng e).ops⟩ ∧
        (t.eng e).ops = (s.eng e).ops + 1 ∧ (t.eng e).bheld = some (n, o.args.b) ∧ SameBytes s t) ∧
    (e < Config.engines → half < 2 → (s.eng e).run half = some r → (s.core r.core).top r.seq = some o →
      o.snap.mmaPoison o.args o.shape = none → o.pair = false → o.runs = [] → o.due = 1 →
      Completes (.engineRunEnd e half .none) s fun t =>
        (t.eng e).run half = none ∧ SameBytes s t ∧
        ∃ o', (t.core r.core).top r.seq = some o' ∧ o'.stat = .ended (.ok (o.snap.mmaRun o.args o.shape r.checked .none)) ∧
          o'.engine = some e ∧ o'.half = half) ∧
    (∀ cl q rest, cl < Config.clusters → s.replayPicks cl = (q, e) :: rest → (s.core q.core).top q.seq = some o →
      Completes (.replayStart cl) s fun t =>
        (t.pool cl).replays = (s.pool cl).replays.filter (fun x => x != q) ∧
        (t.eng e).run (s.eng e).half = some ⟨q.core, q.seq, true, true⟩ ∧ SameBytes s t)

/-- R110, R182: the oldest operation of a core settles: its result enters the accumulator tiles and its flags CORE_FPCSR. -/
def TileOperationSettles : Prop :=
  ∀ (s : State) (n : Nat) (o : TileOp) (rest : List TileOp) (r : RunResult), n < Config.cores →
    (s.core n).tops = o :: rest → o.stat = .ended (.ok r) → (∀ p ∈ rest, p.seq ≠ o.seq) → (s.core n).heldSt = [] →
    Unwatched s n → r.flags &&& (s.core n).traps = 0 → Completes (.tileOpSettle n) s fun t =>
      (t.core n).tops.map TileOp.seq = rest.map TileOp.seq ∧ FlagsMerged s t n r.flags ∧ SameBytes s t ∧
      (t.core n).arch.pc = (s.core n).arch.pc ∧
      RegsKept (s.core n).arch (t.core n).arch { tiles := o.args.writes, creg := [nFPCSR] } ∧
      ∀ k, (t.core n).arch.tile k = ((s.core n).arch.putResult o.args o.shape r).tile k

/-- R110, R188 to R208: tile operations from start to settling. -/
def Obligations.TileOperationsEnd : Prop := TileOperationsRun ∧ TileOperationSettles

/-- R213, R214, R417, R418: firmware takes the verdict records in their order, and an engine that one names as quarantined is
then under its self-test; an engine whose self-test passes is in service again, and one whose test fails in both halves is
retired. -/
def EngineStandingChanges : Prop :=
  ∀ (s : State) (e : Nat) (v : VerdictRec) (rest : List VerdictRec), s.ctl.stalled = false →
    (s.ctl.verdicts = v :: rest → Completes .verdictRecord s fun t =>
      t.ctl.verdicts = rest ∧ t.cores = s.cores ∧ SameBytes s t ∧
      ((∀ o c, EngNote.quarantine e o c ∉ v.notes) → t.eng e = s.eng e) ∧
      ∀ o c, EngNote.quarantine e o c ∈ v.notes → (s.eng e).state = .quarantined → (t.eng e).state = .testing) ∧
    (e < Config.engines → (s.eng e).state = .testing → (s.eng e).idle = true → (s.eng e).why = .redirect →
      ((s.eng e).lower = false → (s.eng e).upper = false → Completes (.engineSelftestEnd e .none) s fun t =>
        (t.eng e).state = .service ∧ (t.eng e).ok = true ∧ (t.eng e).why = .none ∧ t.cores = s.cores) ∧
      Completes (.engineSelftestEnd e .both) s fun t =>
        (t.eng e).state = .retired ∧ (t.eng e).ok = false ∧ t.cores = s.cores)

/-! ### Core registers -/

/-- R87, R93, R94: creg.rd gives the register's value where the level may read it; a number that no chapter assigns raises
0x02 and a level too low 0x0D, with the instruction word. -/
def CoreRegistersRead : Prop :=
  ∀ (s : State) (n : Nat) (f : IF) (d : Desc), Issues s n 4 → f.a = 0 → f.imm.toNat < 0x1000 →
    let num := f.imm.toNat
    let w := (formI 0x22 f).word.setWidth 64
    (∀ l, cregLvl num = some l → num ≠ 0x040 → (∀ lv, l.rd = some lv → lv ≤ (s.core n).pl) →
      ImmediateWrites (.cregRd ⟨n, []⟩ f) s n (formI 0x22 f) (s.cregRead n num)) ∧
    (cregLvl num = none → EntersAtM s n 0x02 d → Completes (.cregRd ⟨n, []⟩ f) s fun t => Entered s t n 0x02 w d) ∧
    (∀ l lv, cregLvl num = some l → l.rd = some lv → (s.core n).pl < lv → EntersAtM s n 0x0D d →
      Completes (.cregRd ⟨n, []⟩ f) s fun t => Entered s t n 0x0D w d)

/-- R93, R94: creg.wr sets the writable fields of a register without an action of its own and no other register; a
register that is read only ignores the write; a level too low raises 0x0D. -/
def CoreRegistersWrite : Prop :=
  ∀ (s : State) (n : Nat) (f : IF) (l : CregLvl) (d : Desc), Issues s n 4 → f.d = 0 → f.imm.toNat < 0x1000 →
    let num := f.imm.toNat
    let i : Instr := .cregWr ⟨n, []⟩ f
    let a := (s.core n).arch
    let v := a.rg f.a.toNat
    cregLvl num = some l →
    (∀ lv, l.wr = some lv → lv ≤ (s.core n).pl → ¬ isCounter num →
      num ∉ [0x001, 0x028, 0x030, 0x041, 0x100, 0x101, 0x400, 0x500] → Completes i s fun t =>
        Retires s t n (s.pcAfter n 4) ∧ RegsKept a (t.core n).arch { creg := [num] } ∧
        (t.core n).cr num = ((s.core n).cr num &&& ~~~(cregRw num)) ||| (v &&& cregRw num)) ∧
    (l.wr = none → Completes i s fun t => Retires s t n (s.pcAfter n 4) ∧ RegsKept a (t.core n).arch {}) ∧
    (∀ lv, l.wr = some lv → (s.core n).pl < lv → EntersAtM s n 0x0D d →
      Completes i s fun t => Entered s t n 0x0D ((formI 0x23 f).word.setWidth 64) d)

/-- R87, R93, R94: creg.rd and creg.wr. -/
def Obligations.CoreRegisters : Prop := CoreRegistersRead ∧ CoreRegistersWrite

/-- The rows that are one core register each: CORE_FPCSR with FSET (R54, R58), CORE_LSE_CTL (R113), VEC_SCTL (R135), CORE_PTB
(R254), L1_CTRL (R274), PERF_CTL.CLR (R502) and the switch of MISS_MODE (R271). -/
def Obligations.CoreRegisterActions : Prop :=
  ∀ (s : State) (n : Nat) (x : Ctx) (a : BitVec 5), x = ⟨n, []⟩ →
    let c := s.core n
    let v := c.arch.rg a.toNat
    let writes := fun (i : Instr) (cregs : List Nat) (P : Core → Prop) => Completes i s fun t =>
      OnlyCore s t n ∧ (t.core n).arch.pc = s.pcAfter n 4 ∧ (t.core n).wait = .none ∧
      (∀ r, (t.core n).arch.rg r = c.arch.rg r) ∧ (∀ k, k ∉ cregs → ¬ isCounter k → (t.core n).cr k = c.cr k) ∧ P (t.core n)
    (Issues s n 4 → Unwatched s n → writes (.fset x a) [nFPCSR] fun t => t.cr nFPCSR = fpcsrWritten (c.cr nFPCSR) v) ∧
    (Issues s n 4 → 1 ≤ c.pl →
      writes (.lseClr x a) [] fun t => if v.toNat.testBit 63 then t.lse = [] ∧ t.lost = 0 else t.lse = c.lse ∧ t.lost = c.lost) ∧
    (Issues s n 4 → writes (.sorrelClr x a) [] fun t => ∀ r, Tab.get none t.arch.sorrel r =
      if v.toNat.testBit 0 then none else Tab.get none c.arch.sorrel r) ∧
    (Issues s n 4 → 1 ≤ c.pl → c.pfAddrs = [] →
      writes (.ptbWrite x a) [nPTB] fun t => t.cr nPTB = v &&& (fmask 46 12 ||| fmask 0 0) ∧ t.tlb = []) ∧
    (Issues s n 4 → 1 ≤ c.pl → c.l1Miss = [] → c.pfWait = [] → s.storesOut n = false → writes (.l1CtrlWrite x a) [nL1CTRL] fun t =>
      (t.cr nL1CTRL).toNat.testBit 0 = v.toNat.testBit 0 ∧ W64.fld (t.cr nL1CTRL) 5 4 = W64.fld v 5 4 ∧
      W64.fld (t.cr nL1CTRL) 11 8 = max 1 (W64.fld v 11 8)) ∧
    (Issues s n 4 → 1 ≤ c.pl → v.toNat.testBit 1 = true →
      writes (.perfClr (.core x a)) [0x500, 0x520] fun t =>
        (∀ k, k < 8 → t.cr (0x510 + k) = 0) ∧ t.cr 0x520 = 0 ∧ t.cr 0x500 = BitVec.ofNat 64 (W64.fld v 0 0)) ∧
    (∀ val : W64, s.running = true → Completes (.perfClr (.device val)) s fun t =>
      t = { s with regs := t.regs } ∧ ∀ k, k < 32 → t.reg (wPERF + 0x200 + 8 * k) = 0) ∧
    (∀ b, n < Config.cores → c.missMode = some (b, []) → Completes (.missModeSwitch n) s fun t =>
      OnlyCore s t n ∧ (t.core n).missMode = none ∧ ((t.core n).cr nL1CTRL).toNat.testBit 0 = b ∧
      RegsKept c.arch (t.core n).arch { creg := [nL1CTRL] })

/-! ### Tasks -/

/-- R222, R224: a read of CORE_TTAKE gives 0 while a task is active and else begins to search; a write of CORE_TDONE is ignored
with no task active and else waits for the end of the task's work. -/
def TaskRegistersWait : Prop :=
  ∀ (s : State) (n : Nat) (d a : BitVec 5), Issues s n 4 → 1 ≤ (s.core n).pl →
    let waits := fun (i : Instr) (w : Wait) => Completes i s fun t =>
      OnlyCore s t n ∧ (t.core n).arch = (s.core n).arch ∧ (t.core n).wait = w
    ((s.core n).task.isSome = true → ImmediateWrites (.ttakeRead ⟨n, []⟩ d) s n (formI 0x22 ⟨d, 0, 0x040⟩) 0) ∧
    ((s.core n).task = none → waits (.ttakeRead ⟨n, []⟩ d) (.take d)) ∧
    ((s.core n).task = none → Completes (.tdoneWrite ⟨n, []⟩ a) s fun t =>
      Retires s t n (s.pcAfter n 4) ∧ RegsKept (s.core n).arch (t.core n).arch {}) ∧
    ((s.core n).task.isSome = true → waits (.tdoneWrite ⟨n, []⟩ a) (.tdone (((s.core n).arch.rg a.toNat).setWidth 8)))

/-- R59, R127, R156, R222, R223, R230: a searching core takes the first eligible task in its order: the read gives the
descriptor's address with bit 0 set, the task leaves its queue, and the registers of the vector unit, the tiles and
CORE_FPCSR begin empty. -/
def TaskBegins : Prop :=
  ∀ (s : State) (n q : Nat) (d : BitVec 5) (k : QTask), n < Config.cores → (s.core n).runs = true → (s.core n).wait = .take d →
    ((s.core n).ie && (s.core n).pend.any) = false → (s.core n).noTake = false → s.findTask n = some (q, k) →
    Completes (.taskTake n) s fun t =>
      let a := (s.core n).arch
      let c := t.core n
      c.task = some ⟨k, 0, false⟩ ∧ c.wait = .none ∧ c.arch.pc = a.pc + 4 ∧ c.spec = k.spec ∧
      c.arch.rg d.toNat = (if d = 0 then 0 else k.d.addr ||| 1) ∧ (∀ r, r ≠ d.toNat → c.arch.rg r = a.rg r) ∧
      (∀ r, c.arch.rf r = a.rf r) ∧ (∀ r, c.arch.rv r = 0) ∧ (∀ r, c.arch.row r = 0) ∧
      (∀ i, c.arch.tile i = Tile.reset) ∧ c.cr nFPCSR = 0 ∧ c.cr 0x002 = k.d.seed ∧ c.cr 0x003 = 0 ∧ c.cr nVCTRL = 0 ∧
      W64.fld (c.cr nMXCTRL) 1 0 = k.d.check.toNat ∧
      t.queue q = (s.queue q).filter (fun x => x.seq != k.seq) ∧ (∀ p, p ≠ q → t.queue p = s.queue p) ∧
      (∀ m, m ≠ n → t.core m = s.core m) ∧ SameBytes s t

/-- R222, R224, R230: a core asks for a task and begins it. -/
def Obligations.TasksBegin : Prop := TaskRegistersWait ∧ TaskBegins

/-- R224, R225, R227, R397: a task that is not speculative ends once its tile work and stores are complete: its signals are added
to their sheaves, it is live no longer, and its end is reported; here no engine test is due and no version waits for a
guard. -/
def TaskEnds : Prop :=
  ∀ (s : State) (n : Nat) (st : Byte) (k : TaskCtx), n < Config.cores → (s.core n).runs = true → s.asyncDue n = false →
    (s.core n).wait = .tdone st → (s.core n).tops = [] → s.storesOut n = false → (s.core n).task = some k → k.q.spec = false →
    s.ctl.coreTests = [] → (∀ i, i < 8 → (s.eng (8 * n + i)).testDue = false) →
    (∀ v, v < Config.versions → (s.ver v).undecided = false) → s.ctl.stalled = false → s.ctl.ends = [] →
    let w := s.regF (wMBX + 0x08) 31 0
    (w + 2 ^ 32 - s.regF (wMBX + 0x10) 31 0) % 2 ^ 32 ≠ 2048 → Completes (.taskEnd n) s fun t =>
      (t.core n).task = none ∧ (t.core n).wait = .none ∧ (t.core n).arch.pc = (s.core n).arch.pc + 4 ∧
      RegsKept (s.core n).arch (t.core n).arch { creg := [nSTATUS] } ∧
      (∀ p, p < Config.sheaves → (t.sheaf p).toNat =
        min 0xFFFFFFFF ((s.sheaf p).toNat + (k.q.d.sigs.filter fun g => g.1 == p).foldl (fun m g => m + g.2) 0)) ∧
      t.live = s.live.filter (fun p => p.1 != k.q.seq) ∧
      Tab.get none t.ctl.reports (w % 2048) = some ⟨0x01, n, k.q.d.taskid, s.tb.epoch,
        BitVec.ofNat 64 (st.toNat + 256 * b1 k.late), k.q.d.addr⟩ ∧
      t.regF (wMBX + 0x08) 31 0 = (w + 1) % 2 ^ 32 ∧ SameBytes s t

/-- R244: a committed version whose held remote stores have all been sent is FREE. -/
def CommittedVersionFrees : Prop :=
  ∀ (s : State) (v : Nat), (s.ver v).committing = true → (s.ver v).remote = [] →
    Completes (.remoteStoresSent v) s fun t =>
      (t.ver v).state = .free ∧ (t.ver v).committing = false ∧ (t.ver v).last = (s.ver v).last ∧
      (∀ u, u ≠ v → t.ver u = s.ver u) ∧ SameBytes s t ∧ t.cores = s.cores

/-- R224, R225, R244: the end of a task, and of a committed version. -/
def Obligations.TasksAndVersionsEnd : Prop := TaskEnds ∧ CommittedVersionFrees

/-! ### Events of a core -/

/-- R105, R108, R109, R448: asyncDelivery completes. With IE set on a running core whose tile operations have settled, the
pending cause of the highest rank is delivered, at the instruction that then waits or comes next, and is pending no longer:
0x0B, 0x0A, 0x22, 0x21, 0x20, the flag of an asynchronous cause in CORE_CAUSE; with no handler in any table the core is wedged.
On a core that has not started the runtime, message 0 starts it. With nothing to deliver, nothing changes. -/
def AsynchronousDelivery : Prop :=
  ∀ (s : State) (n : Nat) (d : Desc), n < Config.cores → (s.core n).runs = true → (s.core n).tops = [] →
    s.midRemote n = false →
    let c := s.core n
    let p := c.pend
    -- The instruction that waits gives way.
    let s' := s.updCore n Core.giveWay
    let delivers := fun (cause : Nat) (tval : W64) (clear : Pend → Bool) =>
      (c.parity = [] → EntersAtM s n cause d → Completes (.asyncDelivery n) s fun t =>
        EnteredWith s' t n (BitVec.ofNat 64 (2 ^ 63 + cause)) tval d ∧ clear (t.core n).pend = false) ∧
      (s.findDesc n cause = none → c.task = none → Completes (.asyncDelivery n) s fun t =>
        (t.core n).mode = .wedged ∧ t.ctl.wedges = s.ctl.wedges ++ [⟨n, cause, tval, none⟩] ∧ clear (t.core n).pend = false ∧
        SameBytes s t ∧ ∀ m, m ≠ n → t.core m = s.core m)
    (c.ie = true → s.verdictNow n = false →
      (p.lse = true → delivers 0x0B (BitVec.ofNat 64 p.lseCount) Pend.lse) ∧
      (p.lse = false → p.rstore = true → delivers 0x0A (BitVec.ofNat 64 p.rstoreCount) Pend.rstore) ∧
      (p.lse = false → p.rstore = false → p.verdict = true → s.discarding n = false →
        delivers 0x22 p.verdictMask Pend.verdict) ∧
      (p.lse = false → p.rstore = false → p.verdict = false → p.msg = true → delivers 0x21 p.msgMask Pend.msg) ∧
      (p.lse = false → p.rstore = false → p.verdict = false → p.msg = false → p.epoch = true →
        delivers 0x20 p.epochMask Pend.epoch)) ∧
    (s.asyncDue n = false → c.fwTakes = false → Leaves (.asyncDelivery n) s) ∧
    (s.asyncDue n = false → c.fwTakes = true → p.msgMask.toNat.testBit 0 = false → Completes (.asyncDelivery n) s fun t =>
      OnlyCore s t n ∧ (t.core n).pend.msg = false ∧ (t.core n).arch = c.giveWay.arch) ∧
    (s.asyncDue n = false → c.fwTakes = true → p.msgMask.toNat.testBit 0 = true →
      Completes (.asyncDelivery n) s fun t =>
        let e := t.core n
        OnlyCore s t n ∧ e.started = true ∧ e.pend.msg = false ∧ e.pl = 1 ∧ e.ie = false ∧ e.nest = 0 ∧
        e.arch.pc = s.reg (wSEC + 0x40) &&& ~~~3 ∧ e.cr 0x021 = (s.reg (wSEC + 0x48) &&& fmask 46 12) ∧
        e.cr nPTB = (s.reg (wSEC + 0x50) &&& (fmask 46 12 ||| fmask 0 0)) ∧ e.cr nSLIM = 0)

/-- R112, R405, R413: a store that meets an error on its path leaves the buffer without its bytes, is logged, is pending as
0x0B and poisons its sector. -/
def LateStoreErrorIsLogged : Prop :=
  ∀ (s : State) (n i : Nat) (e : SbEntry), n < Config.cores → (s.core n).sb[i]? = some e → (s.core n).blockedSb i e = false →
    (s.core n).l1Pend = none → e.ver = none → e.addr.toNat % 32 = 0 → e.addr.toNat + 32 ≤ Config.memTop → s.frameRetired (e.addr.toNat / 4096) = false →
    (s.core n).resetting = false → (s.core n).lse.length < 8 → Completes (.lateStoreError n i) s fun t =>
      (t.core n).sb = ((s.core n).dropSb i).sb ∧ (t.core n).pend.lse = true ∧
      (t.core n).pend.lseCount = (s.core n).pend.lseCount + 1 ∧ (t.core n).lse = (s.core n).lse ++ [⟨e.addr, e.pl, 0⟩] ∧
      (t.core n).arch = (s.core n).arch ∧ t.poisoned (e.addr.toNat / 32) = true ∧ SameBytes s t

/-- R82, R91, R112, R266, R405: a store from issue to memory, or to its error. -/
def Obligations.StoresReachMemory : Prop := StoresSeenByCore ∧ DrainedStoreReachesMemory ∧ LateStoreErrorIsLogged

/-- R103, R248, R397, R398: wedged completes. Where the control processor runs, firmware takes a core's wedge message: it reports
the task that was lost with the core, if there is one, and then the wedged core, with the undelivered cause and its TVAL, as
long as the report ring has room. -/
def WedgeIsReported : Prop :=
  ∀ (s : State) (n : Nat), s.ctl.stalled = false →
    let w := s.regF (wMBX + 0x08) 31 0
    let used := (w + 2 ^ 32 - s.regF (wMBX + 0x10) 31 0) % 2 ^ 32
    (s.ctl.wedges.find? (fun x => x.core == n) = none → Leaves (.wedged n) s) ∧
    ∀ m, s.ctl.wedges.find? (fun x => x.core == n) = some m → Completes (.wedged n) s fun t =>
      let rep := fun k => Tab.get none t.ctl.reports (k % 2048)
      let told : Report := ⟨0x0A, n, 0, s.tb.epoch, BitVec.ofNat 64 m.cause, m.tval⟩
      t.ctl.wedges = s.ctl.wedges.filter (fun x => x.core != n) ∧ t.cores = s.cores ∧ SameBytes s t ∧
      (m.task = none → used < 2048 → rep w = some told ∧ t.regF (wMBX + 0x08) 31 0 = (w + 1) % 2 ^ 32) ∧
      (∀ id, m.task = some id → used < 2047 →
        rep w = some ⟨0x03, n, id, s.tb.epoch, BitVec.ofNat 64 m.cause, m.tval⟩ ∧ rep (w + 1) = some told ∧
        t.regF (wMBX + 0x08) 31 0 = (w + 2) % 2 ^ 32) ∧
      (used = 2048 → t.ctl.reports = s.ctl.reports)

/-- R103, R108, R109: asynchronous causes, and a wedged core. -/
def Obligations.CoreEvents : Prop := AsynchronousDelivery ∧ WedgeIsReported

/-! ### Caches -/

/-- R278 to R281: cache.dead makes the core see a line of zeros; a prefetch takes a miss register; tlb.inv and tlb.inva remove the
translations of every core, and need level S. -/
def CacheInstructions : Prop :=
  ∀ (s : State) (n : Nat) (x : Ctx) (f : RF) (d : Desc), x = ⟨n, []⟩ → Issues s n 4 → f.d = 0 → f.b = 0 → f.k = 0 →
    let c := s.core n
    let a := (c.arch.rg f.a.toNat).toNat
    let line := a / 128 * 128
    let done := fun (i : Instr) (P : State → Prop) => Completes i s fun t =>
      (t.core n).arch.pc = s.pcAfter n 4 ∧ (t.core n).wait = .none ∧ RegsKept c.arch (t.core n).arch {} ∧ SameBytes s t ∧ P t
    let fetches := fun (i : Instr) (only : Bool) => done i fun t =>
      (t.core n).l1Miss = c.l1Miss ++ [⟨a / 128, 0xF, 0, only, 0, []⟩] ∧
      OnlyCore s { t with mem := s.mem, regs := s.regs, dramStacks := s.dramStacks } n
    (line + 128 ≤ Config.memTop → c.sb = [] → c.heldSt = [] → c.heldVer = none → done (.cacheDead x f) fun t =>
      ∀ b, seen t n b = if line ≤ b ∧ b < line + 128 then 0 else seen s n b) ∧
    (a < Config.memTop → (c.l1Miss.any fun m => m.line == a / 128) = false → c.l1Miss.length < c.missMax →
      s.sliceFull (a / 128) = false → StacksQuiet s →
      ((c.l1Line (a / 128)).valid ≠ 0xF → fetches (.cachePf x f) false) ∧ fetches (.cachePfLlc x f) true) ∧
    (1 ≤ c.pl → s.pfUnder (fun t => t.covers a) = false → done (.tlbInv x f) fun t =>
      ∀ m, (t.core m).tlb = (s.core m).tlb.filter fun e => !e.covers a) ∧
    (1 ≤ c.pl → f.a = 0 → s.pfUnder (fun _ => true) = false → done (.tlbInva x f) fun t => ∀ m, (t.core m).tlb = []) ∧
    (c.pl = 0 → EntersAtM s n 0x0D d → Completes (.tlbInv x f) s fun t =>
      Entered s t n 0x0D ((formCache f 4 true).word.setWidth 64) d)

/-- R256, R270, R272: a fill brings the sectors of a miss into the home slice and, unless it is for the slice only, into the
L1 of the core, and frees the miss registers. -/
def LineFillCompletesMiss : Prop :=
  ∀ (s : State) (n line : Nat) (m : L1Miss), (s.core n).l1Miss.find? (fun x => x.line == line) = some m →
    isRemoteLine line = false → s.lineCopying line = false → (s.core n).pfWait = [] → (s.core n).l1Pend = none →
    Completes (.lineFill n line []) s fun t =>
      (t.core n).l1Miss = (s.core n).l1Miss.filter (fun x => x.line != line) ∧ line ∉ t.mem.miss ∧
      (t.llcLine line).valid &&& m.mask = m.mask ∧
      (m.llcOnly = false → ((t.core n).l1Line line).valid &&& m.mask = m.mask) ∧
      (t.core n).arch = (s.core n).arch ∧ SameBytes s t

/-- R256, R270, R278 to R281: cache instructions and line fills. -/
def Obligations.CachesFill : Prop := CacheInstructions ∧ LineFillCompletesMiss

/-- R283, R285: GO starts an operation on an idle Swath channel over its range of lines; a busy one refuses it and sets
REJECT; ABORT marks a running one. -/
def SwathStarts : Prop :=
  ∀ (s : State) (ch : Nat) (val : W64), ch < 16 → s.running = true →
    let base := s.regF (swAt ch) 46 7 * 128
    let lines := s.regF (swAt ch + 8) 33 0
    let pin := val.toNat.testBit 8
    let starts := fun (i : Instr) (op : Nat) =>
      ((s.swath ch).busy = false → 0 < lines → base + 128 * lines ≤ Config.memTop → (pin = true → op = 5) →
        Completes i s fun t =>
          t = { s with mem := t.mem, regs := t.regs } ∧ SameBytes s t ∧
          t.swath ch = { Swath.reset with busy := true, first := base / 128, lines := lines, op := op, pin := pin,
                                            irq := val.toNat.testBit 9 }) ∧
      ((s.swath ch).busy = true → Completes i s fun t =>
        t = { s with regs := t.regs } ∧ (t.swStat ch).toNat.testBit 62 = true)
    starts (.clean ch val) 1 ∧ starts (.inval ch val) 2 ∧ starts (.zero ch val) 3 ∧ starts (.unpin ch val) 4 ∧
    starts (.prefetch ch val) 5 ∧
    Completes (.abort ch val) s fun t =>
      (t.swath ch).aborted = ((s.swath ch).aborted || (s.swath ch).busy) ∧ SameBytes s t ∧ t.cores = s.cores

/-- R284, R285, R286: a running operation treats a line of its range once: CLEAN, INVAL, ZERO, UNPIN, PREFETCH; with every line
treated, or when it was aborted, it completes with its status. -/
def SwathTreatsLines : Prop :=
  ∀ (s : State) (ch line : Nat),
    let x := s.swath ch
    (x.busy = true → x.aborted = false → x.first ≤ line → line < x.first + x.lines → x.treated.has line = false →
      s.mem.served = true → (x.op = 5 → s.lineCopying line = false) →
      Completes (.swathLine ch line) s fun t =>
        (t.swath ch).count = x.count + 1 ∧ (t.swath ch).treated.has line = true ∧
        (x.op = 1 → (t.llcLine line).dirty = 0 ∧ SameBytes s t) ∧
        (x.op = 2 → (t.llcLine line).valid = 0 ∧ (∀ m, ((t.core m).l1Line line).valid = 0) ∧ SameBytes s t) ∧
        (x.op = 3 → s.frameRetired (line / 32) = false →
          (∀ b, t.byte b = if b / 128 = line then 0 else s.byte b) ∧ t.linePoisoned line = false) ∧
        (x.op = 4 → (t.llcLine line).pinned = false ∧ SameBytes s t) ∧
        (x.op = 5 → (t.llcLine line).valid = 0xF ∧ SameBytes s t)) ∧
    (x.busy = true → (x.aborted = true ∨ x.count = x.lines) → Completes (.swathComplete ch) s fun t =>
      (t.swath ch).busy = false ∧ SameBytes s t ∧ t.cores = s.cores ∧
      W64.fld (t.swStat ch) 55 48 = if x.aborted then 3 else if x.poisonSeen then 4 else 0)

/-- R283 to R286: Swath. -/
def Obligations.SwathChannels : Prop := SwathStarts ∧ SwathTreatsLines

/-! ### Stacked memory -/

/-- R300, R307, R308, R404, R405, R409: what a stack read finds is what the next read of its sector meets: a first read by the
table of R404, a second where it fails, and poison where both do; a write-back reaches its stack and the line has a written
record; a copied row is remapped to its spare. -/
def StackAccesses : Prop :=
  ∀ (s : State),
    (∀ sec first second, Completes (.stackRead sec first second) s fun t =>
      t = { s with mem := { s.mem with finds := t.mem.finds } } ∧
      let u := t.readSector sec
      SameBytes s u ∧ (∀ f ∈ u.mem.finds, f.1 ≠ sec) ∧
      (∀ b, s.readGives sec first = some b → u.mem.poison.has sec = b) ∧
      (∀ b, s.readGives sec first = none → s.readGives sec second = some b → u.mem.poison.has sec = b) ∧
      (s.readGives sec first = none → s.readGives sec second = none → u.poisoned sec = true)) ∧
    (∀ sec e, s.readGives sec (.groups e) =
      let x := if s.mem.poison.has sec then ~~~e else e
      if x = 0 then some false else if x = 0xFF then some true else none) ∧
    (∀ line p bad, s.mem.wbs.find? (fun q => q.1 == line) = some p → s.lineCopying line = false →
      isRemoteLine line = false → s.frameRetired (line / 32) = false → Completes (.stackWrite line bad) s fun t =>
        t.mem.wbs = s.mem.wbs.erase p ∧ t.mem.written.has line = true ∧ SameBytes s t ∧
        (∀ i, i < 4 → p.2.toNat.testBit i = true → bad = true → t.poisoned (4 * line + i) = true)) ∧
    (∀ st pch bank c, s.mem.copying.find? (fun c => c.row.stack == st && c.row.pch == pch && c.row.bank == bank) = some c →
      s.pel.homeWait = [] → Completes (.remapComplete st pch bank 0 []) s fun t =>
        t.mem.copying = s.mem.copying.erase c ∧ t.mem.remaps = s.mem.remaps ++ [(c.row, c.spare)] ∧ SameBytes s t)

/-- R301, R302: a refresh that falls due in windowed mode adds to its bank's debt, up to 512, from where it is forced; a debt
stays below 512 in distributed mode; a window lowers every debt by one for each 200 ns of it, as its ticks pass. -/
def RefreshDebts : Prop :=
  ∀ (s : State) (st pch bank : Nat), st < Config.dramStacks → pch < 32 → bank < 96 → s.pins.clocks = true →
    let d := fun (s : State) (st k : Nat) => Tab.get 0 (s.stack st).debt k
    let k := debtKey pch bank
    (s.windowed = true → d s st k < 512 → Completes (.refreshDue st pch bank) s fun t =>
      t = { s with dramStacks := t.dramStacks } ∧ d t st k = d s st k + 1 ∧
      ∀ u j, (u ≠ st ∨ j ≠ k) → d t u j = d s u j) ∧
    (s.windowed = true → 512 ≤ d s st k → Completes (.refreshDue st pch bank) s fun t =>
      t = { s with dramStacks := t.dramStacks } ∧ (∀ u j, d t u j = d s u j) ∧ ((t.stack st).forced = true ∨ s.inRefresh = true)) ∧
    (s.windowed = false → Completes (.refreshDue st pch bank) s fun t =>
      t = { s with dramStacks := t.dramStacks, free := t.free } ∧ d t st k < 512 ∧
      ∀ u j, (u ≠ st ∨ j ≠ k) → d t u j = d s u j) ∧
    (∀ a e, s.tb.window = some (a, e) → s.tb.now < e →
      (s.tbRun = true → s.tb.prov = false ∧ (∀ n, s.slotArmed n = false) ∧ s.tb.tick + (e - s.tb.now) < s.tb.period) →
      Completes .refreshWindowEnd s fun t =>
      t.tb.window = none ∧ t.tb.now = e ∧ SameBytes s t ∧
      ∀ u j, u < Config.dramStacks → d t u j =
        if s.windowed then d s u j - (windowOps a e e - windowOps a e s.tb.now) else d s u j) ∧
    ∀ a e, windowOps a e e = (e - a) / 50

/-- R304, R305: the ladder of a stack. A sample raises the refresh level at once and holds a fall and the zone for a boundary;
the zone takes effect after 1 ms at the latest. Zone 3 sets CRIT. -/
def StackTemperatures : Prop :=
  ∀ (s : State) (st temp : Nat), st < Config.dramStacks →
    (s.pins.clocks = true → temp < 115 → Completes (.stackTempSample st temp) s fun t =>
      let x := s.stack st
      let y := t.stack st
      y.temp = temp ∧ y.zone = x.zone ∧ y.zoneNext = zoneTarget temp x.zoneNext ∧
      y.refxNext = refreshTarget temp x.refxNext ∧ y.refx = max x.refx y.refxNext ∧
      (y.zoneNext = 3 → x.zoneNext ≠ 3 → y.crit = true) ∧ (∀ u, u ≠ st → t.stack u = s.stack u) ∧ SameBytes s t) ∧
    Completes (.zoneStepTimeout st) s fun t =>
      t = { s with dramStacks := t.dramStacks } ∧ (t.stack st).zone = (s.stack st).zoneNext ∧ ∀ u, u ≠ st → t.stack u = s.stack u

/-- R311, R460: the overwrite ends: MEM_WIPE.BUSY falls, memory keeps what was written since, and a pending life-cycle change is
complete. -/
def OverwriteEnds : Prop :=
  ∀ s : State, s.mem.served = true → s.mem.wiping = true → Completes .overwriteComplete s fun t =>
    t.mem.wiping = false ∧ SameBytes s t ∧ t.cores = s.cores ∧ t.sec.flash.lcPending = false ∧
    t.sec.flash.lcState = if s.sec.flash.lcPending then s.sec.flash.lcTarget else s.sec.flash.lcState

/-- R300 to R311: the stacks, their refresh and temperatures, and the overwrite. -/
def Obligations.StackedMemory : Prop := StackAccesses ∧ OverwriteEnds ∧ RefreshDebts ∧ StackTemperatures

/-! ### Timebase -/

/-- R319, R323, R347: RUN 1 starts the timebase, in tracking with SRC 2 and else unscheduled, where remote visibility is
withdrawn; RUN 0 stops it at once, the epoch and tick counts stay, and waiting fence.e without stores complete. -/
def TimebaseStartsAndStops : Prop :=
  ∀ (s : State) (val : W64), s.running = true →
    (s.tbRun = false → Completes (.runStart val) s fun t =>
      t.tbRun = true ∧ t.tb.epoch = s.tb.epoch ∧ t.tb.tick = s.tb.tick ∧ t.pwr.everRun = true ∧ SameBytes s t ∧
      if 2 ≤ W64.fld val 1 0 then t.tb.mode = .tracking ∧ t.tb.hold = 0 ∧ t.tb.src = 2
      else t.tb.mode = .unscheduled ∧ t.tb.hold = 65 ∧ t.tb.novis = true ∧ t.tb.src = W64.fld val 1 0) ∧
    (s.tbRun = true → Completes (.runStop val) s fun t =>
      t.tbRun = false ∧ t.tb.mode = .stopped ∧ t.tb.hold = 0 ∧ t.tb.novis = true ∧ t.tb.epoch = s.tb.epoch ∧
      t.tb.tick = s.tb.tick ∧ SameBytes s t ∧
      ∀ n e, (s.core n).wait = .fenceE e → s.storesOut n = false →
        (t.core n).wait = .none ∧ (t.core n).arch.pc = (s.core n).arch.pc + 4)

/-- R318, R320: a pulse in tracking that is not early makes a boundary; an early one is counted and changes nothing else; one
after a provisional boundary confirms it; one in holdover returns to tracking. -/
def PulsesMakeBoundaries : Prop :=
  ∀ s : State, s.tbRun = true → s.tb.src = 0 → s.regF wTB 1 0 = 0 →
    let P := fun (f : State → Prop) => Completes .epochIn s f
    (s.tb.mode = .tracking → s.tb.prov = false → s.tb.period - s.tbTol ≤ s.tb.tick → P fun t =>
      t.tb.epoch = s.tb.epoch + 1 ∧ t.tb.tick = 0 ∧ t.tb.mode = .tracking ∧ t.tb.hold = 0 ∧ SameBytes s t) ∧
    (s.tb.mode = .tracking → s.tb.prov = false → s.tb.tick < s.tb.period - s.tbTol → P fun t =>
      t = { s with regs := t.regs } ∧ t.regF (wTB + 0x28) 47 32 = min 0xFFFF (s.regF (wTB + 0x28) 47 32 + 1)) ∧
    (s.tb.mode = .tracking → s.tb.prov = true → s.tb.provLockless = false → P fun t =>
      t.tb.epoch = s.tb.epoch ∧ t.tb.tick = 0 ∧ t.tb.prov = false ∧ t.tb.hold = 0 ∧ SameBytes s t) ∧
    (s.tb.mode = .holdover → P fun t =>
      t.tb.mode = .tracking ∧ t.tb.hold = 0 ∧ t.tb.tick = 0 ∧
      t.tb.epoch = if 2 * s.tb.tick < s.tb.period then s.tb.epoch else s.tb.epoch + 1)

/-- R318, R319, R323, R324: at PERIOD the epoch counts and the ticks begin again: as a boundary of its own with SRC 2,
provisional in tracking, self-generated in holdover; TOL ticks without a pulse after a provisional one bring holdover. -/
def PeriodsMakeBoundaries : Prop :=
  ∀ s : State, s.tbRun = true →
    (Completes .periodReached s fun t =>
      t.tb.epoch = s.tb.epoch + 1 ∧ t.tb.tick = 0 ∧ SameBytes s t ∧
      (s.tb.prov = false → s.regF wTB 1 0 = s.tb.src →
        (s.tb.src = 2 → t.tb.mode = .tracking ∧ t.tb.hold = 0) ∧
        (s.tb.src ≠ 2 → s.tb.mode = .tracking → t.tb.mode = .tracking ∧ t.tb.prov = true) ∧
        (s.tb.src ≠ 2 → s.tb.mode = .holdover → t.tb.hold = min 65 (s.tb.hold + 1) ∧
          t.tb.mode = if 64 ≤ s.tb.hold then .unscheduled else .holdover))) ∧
    (s.tb.prov = true → s.tb.mode = .tracking → s.tb.hold < 64 → Completes .tolExpiry s fun t =>
      t.tb.prov = false ∧ t.tb.mode = .holdover ∧ t.tb.hold = s.tb.hold + 1 ∧ t.tb.epoch = s.tb.epoch ∧
      t.tb.tick = max s.tb.tick (min s.tbTol (s.tb.period - 1)))

/-- R320, R321, R356: a held TIME packet that comes due in tracking makes a boundary that takes its epoch number and period; an
epoch number other than the device's own next one sets JUMP; a later copy for an epoch number that was used changes nothing. -/
def TimePacketsSetEpoch : Prop :=
  ∀ (s : State) (h : HeldTime), s.nextTime = some h → h.due ≤ s.tb.now →
    (s.pel.timesUsed.has h.epoch.toNat = false → s.tbRun = true →
      s.tb.src = 1 → s.regF wTB 1 0 = 1 → s.tb.mode = .tracking → s.tb.prov = false → s.tb.period - s.tbTol ≤ s.tb.tick →
      Completes .timeArrival s fun t =>
        t.tb.epoch = h.epoch ∧ t.tb.tick = 0 ∧ t.tb.period = max 250 (h.period % 2 ^ 22) ∧ t.tb.mode = .tracking ∧
        t.pel.timesUsed.has h.epoch.toNat = true ∧ t.pel.held = s.pel.held.erase h ∧
        (h.epoch ≠ s.tb.epoch + 1 → (t.reg (wTB + 0x08)).toNat.testBit 58 = true)) ∧
    (s.pel.timesUsed.has h.epoch.toNat = true → Completes .timeArrival s fun t =>
      t = { s with pel := { s.pel with held := s.pel.held.erase h } })

/-- R318 to R324, R356: what makes a boundary. -/
def Obligations.EpochBoundaries : Prop := PulsesMakeBoundaries ∧ PeriodsMakeBoundaries ∧ TimePacketsSetEpoch

/-- R326, R328, R329: an armed slot fires at its tick: its bit in TB_FIRED is set, and it is disarmed or moves on by REPEAT; a slot
is armed where its action and argument are allowed, and else ERR is set. -/
def SlotsFireAndArm : Prop :=
  ∀ (s : State) (n : Nat) (val : W64), n < Config.eventSlots →
    (s.tbRun = true → s.slotArmed n = true → s.slotEpoch n = s.tb.epoch.toNat → s.tb.tick ≤ s.slotTick n →
      s.slotTick n < s.tb.period → s.slotsFire = true → s.tb.prov = false → Completes (.slotFire n) s fun t =>
        (t.reg (wTB + 0x30)).toNat.testBit n = true ∧ t.tb.tick = s.slotTick n ∧ t.tb.epoch = s.tb.epoch ∧
        (s.slotRepeat n = 0 → t.slotArmed n = false) ∧
        (s.slotRepeat n ≠ 0 → t.slotArmed n = true ∧ t.slotEpoch n = (s.slotEpoch n + s.slotRepeat n) % 2 ^ 48)) ∧
    (s.running = true → s.slotArmed n = false → s.tb.epoch.toNat < s.slotEpoch n →
      (∀ m, slotArgBits (W64.fld val 25 22) = some m → s.slotArg n &&& ~~~m = 0 → Completes (.slotArm n val) s fun t =>
        t = { s with regs := t.regs } ∧ t.slotArmed n = true ∧ t.slotAction n = W64.fld val 25 22 ∧
        t.slotTick n = W64.fld val 21 0 ∧ t.slotEpoch n = s.slotEpoch n) ∧
      (slotArgBits (W64.fld val 25 22) = none → Completes (.slotArm n val) s fun t =>
        t = { s with regs := t.regs } ∧ t.slotArmed n = false ∧ (t.reg (wTB + 0x08)).toNat.testBit 57 = true))

/-- R315, R324, R475: the loss of TIMEREF clears LOCK and sets REFLOST; the PLL locks again; EPOCH_OUT is released once the ticks of
its pulse have passed, with no boundary among them. -/
def ReferenceAndPulse : Prop :=
  ∀ s : State,
    (s.pins.clocks = true →
      Completes .timerefLost s (fun t =>
        t = { s with regs := t.regs, tb := { s.tb with timeref := false, lock := false } } ∧
        (t.reg (wTB + 0x08)).toNat.testBit 62 = true) ∧
      Completes .pllLock s fun t => t = { s with tb := { s.tb with timeref := true, lock := true } }) ∧
    (s.pins.epochOut = .low → s.pins.clocks = true → s.tb.now < s.tb.outUntil →
      (s.tbRun = true → s.tb.tick + (s.tb.outUntil - s.tb.now) < s.tb.period) →
      Completes .epochOutRelease s fun t =>
        t.pins.epochOut = .released ∧ t.tb.now = s.tb.outUntil ∧ t.tb.epoch = s.tb.epoch ∧ SameBytes s t)

/-- R315, R319, R323 to R329: starting and stopping, event slots, the reference. -/
def Obligations.TimebaseControls : Prop := TimebaseStartsAndStops ∧ SlotsFireAndArm ∧ ReferenceAndPulse

/-! ### Pelvar -/

/-- A good packet of a kind for this device arrives on a port that is UP (R354). -/
structure Arrives (s : State) (port : Nat) (p : Packet) (kind : Nat) : Prop where
  inRange : port < Config.ports
  up : (s.port port).state = .up
  kind : p.kind.toNat = kind
  good : packetGood p = true
  dst : p.dst.toNat = s.devnum

/-- Nothing but registers and Pelvar's own state differs, and these packets have left. -/
def Sends (s t : State) (l : List (Nat × Packet)) : Prop :=
  t = { s with regs := t.regs, pel := t.pel } ∧ t.pel.sent = s.pel.sent ++ l

/-- R333, R338, R351, R355: RD is answered with committed data; RD, WR and ATM that no export window grants are REFUSED; a WR writes
its bytes and an ATM exchanges its word or doubleword at once, and both leave a record in the filter, from which a
repetition is answered without a second effect. A request waits while memory is not served or its row is copied (R308, R311); after
a link failure every request is REFUSED (R422). -/
def Obligations.RequestsAreServed : Prop :=
  ∀ (s : State) (port q : Nat) (p : Packet), s.route s.devnum p.src.toNat = some q → s.pel.filter.length < filterMax →
    s.mem.finds = [] →
    let a := p.addr.toNat / 128 * 128
    let m : BitVec 4 := p.aux.setWidth 4
    let reply := fun (kind status aux : Nat) (pay : List Byte) =>
      (q, s.packet kind p.src.toNat p.tag.toNat p.gen aux 0 pay.length 0 status pay)
    let requests := [(Instr.rd port p, 1, 2), (.wr port p, 3, 4), (.atm port p, 5, 6)]
    (∀ i kind ans, (i, kind, ans) ∈ requests → Arrives s port p kind →
      (s.homeWaits p = true → Completes i s fun t =>
        t = { s with regs := t.regs, pel := { s.pel with homeWait := s.pel.homeWait ++ [(port, p)] } }) ∧
      (s.fault.fatal = true → Completes i s fun t => Sends s t [reply ans 1 0 []])) ∧
    (Arrives s port p 1 → s.homeWaits p = false → s.sliceFull (a / 128) = false →
      (s.accepts p (a + (maskSpan m).1) (maskSpan m).2 0 = true → (∀ i ∈ sectors m, s.poisoned (a / 32 + i) = false) →
        Completes (.rd port p) s fun t => SameBytes s t ∧ t.cores = s.cores ∧
          t.pel.sent = s.pel.sent ++ [reply 2 0 m.toNat ((sectors m).map fun i => s.bytesAt (a + 32 * i) 32).flatten]) ∧
      (s.accepts p (a + (maskSpan m).1) (maskSpan m).2 0 = false →
        Completes (.rd port p) s fun t => Sends s t [reply 2 1 0 []])) ∧
    (Arrives s port p 3 → s.filtered p = none → s.homeWaits p = false →
      let sp := byteSpan (wrMask p)
      (s.accepts p (a + sp.1) sp.2 1 = true → s.frameRetired (a / 4096) = false → s.isLate p = false →
        Completes (.wr port p) s fun t =>
          t.pel.sent = s.pel.sent ++ [reply 4 0 0 []] ∧ t.pel.filter = s.pel.filter ++ [⟨p.src, p.tag, 0, 0, s.tb.now⟩] ∧
          ∀ b, t.byte b =
            if b / 128 * 128 = a ∧ (wrMask p).testBit (b % 128) then
              p.payload.getD (16 + 32 * ((sectors m).filter fun i => decide (i < b / 32 % 4)).length + b % 32) 0
            else s.byte b) ∧
      (s.accepts p (a + sp.1) sp.2 1 = false → Completes (.wr port p) s fun t => Sends s t [reply 4 1 0 []])) ∧
    (Arrives s port p 5 → s.filtered p = none → s.homeWaits p = false → p.aux.toNat % 128 < 8 →
      let w := if p.aux.toNat % 256 < 128 then 32 else 64
      let x := p.addr.toNat
      let old := s.num x (w / 8)
      let new := atomicOp (p.aux.toNat % 16) w old (ofBytes (p.payload.take 8) % 2 ^ w)
        (ofBytes ((p.payload.drop 8).take 8) % 2 ^ w)
      x % (w / 8) = 0 → s.accepts p x (w / 8) 2 = true → s.poisoned (x / 32) = false →
        Completes (.atm port p) s fun t =>
          t.pel.sent = s.pel.sent ++ [reply 6 0 0 (bytesOf 8 old)] ∧
          t.pel.filter = s.pel.filter ++ [⟨p.src, p.tag, 0, BitVec.ofNat 64 old, s.tb.now⟩] ∧
          t.num x (w / 8) = new ∧ ∀ b, ¬ (x ≤ b ∧ b < x + w / 8) → t.byte b = s.byte b) ∧
    (∀ r, s.filtered p = some r → s.homeWaits p = false → s.fault.fatal = false →
      (Arrives s port p 3 → Completes (.wr port p) s fun t => Sends s t [reply 4 r.status.toNat 0 []]) ∧
      (Arrives s port p 5 → Completes (.atm port p) s fun t =>
        Sends s t [reply 6 r.status.toNat 0 (bytesOf 8 r.old.toNat)]))

/-- R340, R350, R351: an answer to an outstanding request frees its tracker: RDR and ATR bring their data to the waiting
instruction, WRA ends a store; an answer to no outstanding request is counted as late. -/
def Obligations.ResponsesFreeTrackers : Prop :=
  ∀ (s : State) (port n : Nat) (p : Packet) (k : Tracker), s.pel.rwait = [] → s.pel.phases = [] → s.pel.colOut = [] →
    let g := k.global
    (Arrives s port p 2 → s.answered p [1] = some k → k.origin = .load n → p.status ≠ 1 → (s.core n).wait = .remote →
      (s.core n).pfWait = [] →
      (s.pel.trackers.all fun t => match t.2 with
        | some t => t.entry.isNone
        | none => true) = true →
      Completes (.rdr port p) s fun t =>
        t.tracker p.tag.toNat = none ∧ SameBytes s t ∧ (t.core n).arch = (s.core n).arch ∧
        ∀ i ∈ sectors (p.aux.setWidth 4), RemoteData.data (BitVec.ofNat 64 (g / 128 * 128 + 32 * i))
          (BitVec.ofNat 256 (ofBytes ((p.payload.drop
            (32 * ((sectors (p.aux.setWidth 4)).filter fun j => decide (j < i)).length)).take 32)))
          (p.aux.toNat.testBit (4 + i)) ∈ (t.core n).remote) ∧
    (∀ e pl, Arrives s port p 4 → s.answered p [3, 7] = some k → k.origin = .store n pl → k.also = [] → k.entry = some e →
      e.part = 0 → p.status = 0 → Completes (.wra port p) s fun t =>
        t.tracker p.tag.toNat = none ∧ (∀ j, j ≠ p.tag.toNat → t.tracker j = s.tracker j) ∧ SameBytes s t ∧ t.cores = s.cores) ∧
    (Arrives s port p 6 → s.answered p [5] = some k → k.origin = .atomic n → p.status = 0 → (s.core n).wait = .remote →
      Completes (.atr port p) s fun t =>
        t.tracker p.tag.toNat = none ∧ SameBytes s t ∧ (t.core n).arch = (s.core n).arch ∧
        RemoteData.old (BitVec.ofNat 64 g) (BitVec.ofNat 64 (ofBytes (p.payload.take 8))) false ∈ (t.core n).remote) ∧
    (∀ i ks kind, (i, kind, ks) ∈ [(Instr.rdr port p, 2, [1]), (.wra port p, 4, [3, 7]), (.atr port p, 6, [5])] →
      Arrives s port p kind → s.answered p ks = none → Completes i s fun t =>
        t = { s with regs := t.regs } ∧
        t.regF (wPEL + 0x20) 31 0 = min 0xFFFFFFFF (s.regF (wPEL + 0x20) 31 0 + 1))

/-- R335, R355, R356, R360, R361: a COL packet is answered, and its FAIL ends the phase; a TIME packet from the timing source is held
until its LEAD has passed; a packet for another device goes on with one hop less, or is dropped and counted. -/
def OtherPacketsHandled : Prop :=
  ∀ (s : State) (port q : Nat) (p : Packet),
    (Arrives s port p 7 → s.route s.devnum p.src.toNat = some q → s.pelEn = true → s.fault.fatal = false →
      let id := fld p.aux.toNat 15 0
      (s.phase id = none → Completes (.col port p) s fun t =>
        Sends s t [(q, s.packet 4 p.src.toNat p.tag.toNat p.gen 0 0 0 0 0 [])]) ∧
      (s.phase id ≠ none → p.aux.toNat.testBit 19 = true → Completes (.col port p) s fun t =>
        t.phase id = none ∧ (t.reg (wPEL + 0x40)).toNat.testBit 63 = true ∧ SameBytes s t ∧ t.cores = s.cores)) ∧
    (∀ inside, port < Config.ports → (s.port port).state = .up → p.kind = 8 → packetGood p = true →
      p.src.toNat = s.regF (wPEL + 0x30) 63 48 → p.part.toNat = s.part → Completes (.time port p inside) s fun t =>
        let left := p.aux.toNat % 2 ^ 22 - (s.regF (wPEL + 0x400 + 16 * port) 15 8 + inside)
        t = { s with regs := t.regs, pel := t.pel } ∧
        t.pel.held = s.pel.held ++ [⟨s.tb.now + left, p.addr.setWidth 48, p.len.toNat % 2 ^ 22⟩]) ∧
    (port < Config.ports → (s.port port).state = .up → p.kind ≠ 8 → packetGood p = true → p.dst.toNat ≠ s.devnum →
      (s.pelEn = true → (s.reg (wPEL + 8)).toNat.testBit 2 = true → 1 < p.hops.toNat →
        s.route p.src.toNat p.dst.toNat = some q → Completes (.packetForward port p) s fun t =>
          Sends s t [(q, packetSeal { p with hops := p.hops - 1 })]) ∧
      (p.hops.toNat ≤ 1 → Completes (.packetForward port p) s fun t =>
        t = { s with regs := t.regs } ∧
        t.regF (wPEL + 0x28) 31 16 = min 0xFFFF (s.regF (wPEL + 0x28) 31 16 + 1)))

/-- R338, R350: a request without an answer within TIMEOUT is sent again once with GEN 1, then fails and its instruction hears of it;
a record of the filter expires after twice TIMEOUT. Neither comes sooner. -/
def TimersOfPelvar : Prop :=
  ∀ (s : State) (tag n q : Nat) (k : Tracker), s.pel.rwait = [] → s.pel.phases = [] → s.pel.colOut = [] →
    (s.tracker tag = some k → s.tb.now < k.sent + s.timeout → Leaves (.trackerTimeout tag) s) ∧
    (s.tracker tag = some k → k.sent + s.timeout ≤ s.tb.now → k.again = false → k.packet.kind ≠ 7 → s.route s.devnum k.packet.dst.toNat = some q →
      Completes (.trackerTimeout tag) s fun t =>
        Sends s t [(q, packetSeal { k.packet with gen := 1 })] ∧
        t.tracker tag = some
          { k with packet := packetSeal { k.packet with gen := 1 }, again := true, sent := s.tb.now, epoch := s.tb.epoch }) ∧
    (s.tracker tag = some k → k.sent + s.timeout ≤ s.tb.now → k.again = true → k.packet.kind = 1 → k.origin = .load n →
      (s.core n).wait = .remote → (s.core n).pfWait = [] →
      Completes (.trackerTimeout tag) s fun t =>
        t.tracker tag = none ∧ SameBytes s t ∧ (t.core n).arch = (s.core n).arch ∧
        ∀ i ∈ sectors (k.packet.aux.setWidth 4),
          RemoteData.failed (BitVec.ofNat 64 (k.global / 128 * 128 + 32 * i)) ∈ (t.core n).remote) ∧
    (∀ src r, s.pel.filter.find? (fun r => r.src.toNat == src && r.tag.toNat == tag) = some r →
      (s.tb.now < r.at_ + 2 * s.timeout → Leaves (.filterExpiry src tag) s) ∧
      (r.at_ + 2 * s.timeout ≤ s.tb.now → s.pel.filtWait = [] → Completes (.filterExpiry src tag) s fun t =>
        t = { s with pel := { s.pel with filter := s.pel.filter.erase r } }))

/-- R335, R338, R350, R355 to R361: collective, time and foreign packets, and the timers of Pelvar. -/
def Obligations.PacketsAndTimers : Prop := OtherPacketsHandled ∧ TimersOfPelvar

/-- R348, R352, R353, R362, R441, R449: the link layer and the registers of Pelvar. A good flit in sequence is taken, what it
acknowledges is done and its credits are room, and the flits after its ACK are sent again where it asks; a bad one is asked for
again, at most 8 times; a link gives up after 8 replays or 2 µs, trains once EN has been set, not in recovery mode, and comes up
with its peer; EN, RETRAIN and CACHE act as they are written. -/
def Obligations.LinksAndControl : Prop :=
  ∀ (s : State) (n : Nat) (val : W64), n < Config.ports →
    let p := s.port n
    let en := (s.reg (wPEL + 0x400 + 16 * n)).toNat.testBit 0
    let only := fun (t : State) => t = { s with pel := t.pel } ∧ ∀ m, m ≠ n → t.port m = s.port m
    let downs := if p.state = .up then min 65535 (p.downs + 1) else p.downs
    let trains := fun (on : Bool) => if on && s.mayTrain then PortState.training else .down
    (∀ seq ack nak credits, p.state = .up → seq % 4096 = p.seq →
      let left := p.out.dropWhile fun f => decide ((ack % 4096 + 4096 - f.seq) % 4096 < 2048)
      (p.stream = [] → (nak = false ∨ left = []) → Completes (.flit n ⟨seq, ack, nak, credits⟩ true) s fun t =>
        only t ∧ t.pel.wire = s.pel.wire ∧ t.port n =
          { p with seq := (p.seq + 1) % 4096, again := 0, failed := none, owed := p.owed + 1, out := left, room := p.room + credits,
                   outAgain := if left.length = p.out.length then p.outAgain else 0,
                   outFailed := if left.length = p.out.length then p.outFailed else none }) ∧
      (p.stream = [] → left ≠ [] → Completes (.flit n ⟨seq, ack, true, credits⟩ true) s fun t =>
        t = { s with pel := t.pel, regs := t.regs } ∧ (t.port n).seq = (p.seq + 1) % 4096 ∧
        (t.port n).out = left ∧ (t.port n).replays = min 65535 (p.replays + left.length) ∧
        t.pel.wire.length = s.pel.wire.length + left.length) ∧
      (p.again < 8 → Completes (.flit n ⟨seq, ack, nak, credits⟩ false) s fun t =>
        only t ∧ t.port n = { p with again := p.again + 1, failed := p.failed.orElse fun _ => some s.tb.now }) ∧
      (8 ≤ p.again → Completes (.flit n ⟨seq, ack, nak, credits⟩ false) s fun t => only t ∧ (t.port n).state = trains en)) ∧
    (p.state = .up → s.linkSpent p = true → Completes (.linkGiveUp n) s fun t =>
      only t ∧ (t.port n).state = trains en ∧ (t.port n).downs = downs) ∧
    (s.linkSpent p = false → Leaves (.linkGiveUp n) s) ∧
    (∀ peer, p.state = .training → s.mayTrain = true → Completes (.portUp n peer) s fun t =>
      t = { s with pel := t.pel, free := t.free } ∧ (∀ m, m ≠ n → t.port m = s.port m) ∧
      (t.port n).state = .up ∧ (t.port n).peer = peer ∧ (t.port n).seq = 0 ∧ (t.port n).downs = p.downs) ∧
    (∀ peer, s.mayTrain = false → Leaves (.portUp n peer) s) ∧
    (s.running = true →
      Completes (.retrain n val) s (fun t =>
        t = { s with pel := t.pel, regs := t.regs } ∧ (t.port n).downs = downs ∧
        (t.port n).state = trains (val.toNat.testBit 0)) ∧
      Completes (.pelEnable val) s (fun t =>
        t.pelEn = (s.pelEn || decide (s.devnum ≠ 0xFFFF)) ∧ (t.pelEn = true → t.pel.enabled = true) ∧ SameBytes s t) ∧
      Completes (.pelDisable val) s (fun t => t.pelEn = false ∧ SameBytes s t) ∧
      Completes (.pelCacheDisable val) s fun t =>
        t.cacheRemote = false ∧ SameBytes s t ∧ (∀ l, (Tab.get RLine.reset t.mem.rlines l).valid = 0) ∧
        ∀ m l, isRemoteLine l = true → ((t.core m).l1Line l).valid = 0)

/-- The bytes of a collective result (R360). -/
def resultBytes (p : Phase) (r : List XVal) : List Byte :=
  r.foldl (fun acc v => acc ++ bytesOf p.fmtOf.bytes (p.fmtOf.convert v false .rne false).1) []

/-- R358, R360, R361: a phase reads the contributions of its ranks once its sheaf is reached, here on one device; once done it
writes its result to DST and signals SSHEAF; past its deadline it fails and is recorded. -/
def Obligations.CollectivePhases : Prop :=
  ∀ (s : State) (id : Nat) (p : Phase), s.phase id = some p →
    (p.read = false → p.outbox = [] → p.wsheaf < Config.sheaves → p.wcount ≤ (s.sheaf p.wsheaf).toNat →
      (∀ r ∈ p.rmap, r = s.devnum) → s.devnum ≠ 0xFFFF →
      let n := p.count * p.fmtOf.bytes
      let at_ := fun r => (p.src + p.stride * r) % 2 ^ 64
      (∀ r, r < p.rmap.length → visible (at_ r) n = true ∧ s.spanPoisoned (at_ r) n = false) →
      Completes (.collectiveRead id) s fun t =>
        ∃ p', t.phase id = some p' ∧ p'.read = true ∧ p'.outbox = [] ∧
          (∀ r, r < p.rmap.length → (⟨0, r, 0, (List.range p.count).map fun e =>
            p.fmtOf.value (s.num (at_ r + e * p.fmtOf.bytes) p.fmtOf.bytes)⟩ : ColNode) ∈ p'.nodes) ∧
          SameBytes s t ∧ t.cores = s.cores) ∧
    (∀ r, p.done s.devnum = true → (p.all || p.dev 0 == s.devnum) = true → p.result = some r →
      (s.pel.trackers.all fun t => match t.2 with
        | some t => (match t.origin with
          | .collective i _ => i != id
          | _ => true)
        | none => true) = true →
      (∀ v, v < Config.versions → (s.ver v).undecided = false) →
      let bs := resultBytes p r
      p.dst + bs.length ≤ Config.memTop → (∀ i, i < bs.length → s.frameRetired ((p.dst + i) / 4096) = false) →
      Completes (.collectiveComplete id) s fun t =>
        t.phase id = none ∧
        (∀ b, t.byte b = if p.dst ≤ b ∧ b < p.dst + bs.length then bs.getD (b - p.dst) 0 else s.byte b) ∧
        (p.ssheaf < Config.sheaves → (t.sheaf p.ssheaf).toNat = min 0xFFFFFFFF ((s.sheaf p.ssheaf).toNat + p.sinc))) ∧
    (p.deadline ≤ (s.tb.epoch - p.start).toNat → Completes (.collectiveDeadline id) s fun t =>
      t.phase id = none ∧ (t.reg (wPEL + 0x40)).toNat.testBit 63 = true ∧ SameBytes s t ∧ t.cores = s.cores)

/-! ### Mailboxes -/

/-- What the host finds in a mailbox whose command is complete (R383): its status and result; the other mailboxes stay. -/
structure Answered (s t : State) (mb : Nat) (st : Byte) (res : List Byte) : Prop where
  state : (t.mb mb).state = .done
  status : (t.mb mb).status = st
  length : (t.mb mb).rsplen = res.length
  result : ∀ i, Tab.get 0 (t.mb mb).result i = res.getD i 0
  others : ∀ m, m ≠ mb → t.mb m = s.mb m

/-- The journal entry of the command of a mailbox, where it still stands, takes status, epoch and result (R401). -/
def Journaled (s t : State) (mb : Nat) (st : Byte) (res : List Byte) : Prop :=
  ∀ c e, (s.mb mb).taken = some c → Tab.get none s.ctl.journal (c.seq % 4096) = some e → e.seq = c.seq →
    Tab.get none t.ctl.journal (c.seq % 4096) =
      some { e with status := st, done := some s.tb.epoch, res0 := BitVec.ofNat 64 (ofBytes (res.take 8)) }

/-- Mailbox `mb` holds an accepted command with this code, which is still to be performed. -/
structure Waits (s : State) (mb code : Nat) (c : Cmd) : Prop where
  serving : s.serving = true
  state : (s.mb mb).state = .accepted
  taken : (s.mb mb).taken = some c
  code : c.code = code
  begun : (s.mb mb).begun = false

/-- Every check of R386 passes. -/
structure Due (s : State) (mb code : Nat) (c : Cmd) : Prop extends Waits s mb code c where
  ok : s.checkCmd mb c = stOk

/-- No version waits for a verdict. -/
def NoneUndecided (s : State) : Prop := ∀ v, v < Config.versions → (s.ver v).undecided = false

/-- R382 to R386, R399 to R401: a mailbox from its post to its release. The host posts a FREE one and frees a DONE one, and any
other write of STATE sets BADWR; firmware takes the oldest post, numbers and journals it, and refuses it at once where a check
fails; COMMAND_COMPLETE gives the result of a long command, and FAILED in the fatal state (R422). -/
def MailboxesServeCommands : Prop :=
  ∀ (s : State) (mb : Nat) (val : W64),
    let b := s.mb mb
    let only := fun (t : State) => t = { s with ctl := t.ctl } ∧ ∀ m, m ≠ mb → t.mb m = s.mb m
    (mb < Config.mailboxes → s.hostServed = true →
      let b' : Mailbox := { b with irq := val.toNat.testBit 2, badwr := b.badwr && !val.toNat.testBit 3 }
      (b.state = .free → Completes (.mailboxPost mb val) s fun t =>
        only t ∧ t.mb mb = { b' with state := .posted } ∧ t.ctl.posted = s.ctl.posted ++ [mb]) ∧
      (b.state = .accepted ∨ b.state = .done → Completes (.mailboxPost mb val) s fun t =>
        only t ∧ t.mb mb = { b' with badwr := true } ∧ t.ctl.posted = s.ctl.posted) ∧
      (b.state = .done → Completes (.mailboxFree mb val) s fun t => only t ∧ t.mb mb = { b' with state := .free }) ∧
      (b.state = .posted ∨ b.state = .accepted → Completes (.mailboxFree mb val) s fun t =>
        only t ∧ t.mb mb = { b' with badwr := true })) ∧
    (∀ rest, s.serving = true → s.ctl.posted = mb :: rest →
      let seq := (s.reg wMBX).toNat
      let c := b.copyCmd seq
      Completes .mailboxAccept s fun t =>
        t = { s with ctl := t.ctl, regs := t.regs } ∧ t.ctl.posted = rest ∧ t.reg wMBX = BitVec.ofNat 64 (seq + 1) ∧
        (∃ e, Tab.get none t.ctl.journal (seq % 4096) = some e ∧ e.seq = seq ∧ e.mailbox = mb ∧ e.code = c.code ∧
          e.tag = c.tag ∧ e.accept = s.tb.epoch ∧
          (s.checkCmd mb c = stOk → e.status = 0xFF ∧ e.done = none) ∧
          (s.checkCmd mb c ≠ stOk → e.status = s.checkCmd mb c ∧ e.done = some s.tb.epoch)) ∧
        (s.checkCmd mb c = stOk → (t.mb mb).state = .accepted ∧ (t.mb mb).taken = some c ∧ (t.mb mb).jseq.toNat = seq % 2 ^ 32) ∧
        (s.checkCmd mb c ≠ stOk → Answered s t mb (s.checkCmd mb c) [])) ∧
    (s.serving = true → b.state = .accepted →
      let gives := fun (st : Byte) (res : List Byte) => Completes (.commandComplete mb) s fun t =>
        t = { s with ctl := t.ctl } ∧ Answered s t mb st res ∧ Journaled s t mb st res
      (∀ r, s.failsFatal mb = false → b.ready = some r → gives r.1 r.2) ∧ (s.failsFatal mb = true → gives stFailed []))

/-- R225, R240, R241, R244, R245, R387: the commands on sheaves and versions. A sheaf takes its sum or value; a sum that meets a
guard commits its version; a verdict decides an undecided version: a commit publishes what it held, a discard does not. -/
def Obligations.SheafAndVerdictCommands : Prop :=
  ∀ (s : State) (mb : Nat) (c : Cmd),
    let n := c.num 0 2
    let gives := fun (i : Instr) (res : List Byte) (P : State → Prop) =>
      Completes i s fun t => Answered s t mb stOk res ∧ Journaled s t mb stOk res ∧ P t
    let sheafOnly := fun (v : W32) (t : State) =>
      t = { s with sheaves := t.sheaves, ctl := t.ctl } ∧ ∀ p, t.sheaf p = if p = n then v else s.sheaf p
    (Due s mb 0x11 c →
      let sum := min 0xFFFFFFFF ((s.sheaf n).toNat + c.num 4 4)
      (NoneUndecided s → gives (.sheafAdd mb) (bytesOf 4 sum) (sheafOnly (BitVec.ofNat 32 sum))) ∧
      (∀ v, v < Config.versions → (s.ver v).undecided = true → (s.ver v).finite = false → (s.ver v).guardSheaf = n →
        (s.ver v).guardCount ≤ sum → (∀ u, u < Config.versions → u ≠ v → (s.ver u).undecided = false) →
        Completes (.sheafAdd mb) s fun t => (t.ver v).last = 1 ∧ (t.ver v).undecided = false)) ∧
    (Due s mb 0x12 c → NoneUndecided s →
      gives (.sheafSet mb) (bytesOf 4 (s.sheaf n).toNat) (sheafOnly (BitVec.ofNat 32 (c.num 4 4)))) ∧
    (Due s mb 0x13 c → gives (.sheafRead mb) ((List.range (c.num 2 2)).flatMap fun i => bytesOf 4 (s.sheaf (n + i)).toNat)
      fun t => t = { s with ctl := t.ctl }) ∧
    (Due s mb 0x14 c →
      let v := c.num 0 1
      (c.num 1 1 = 1 → gives (.verdict mb) [1] fun t =>
        (t.ver v).last = 1 ∧ (t.ver v).lines = [] ∧ ((s.ver v).remote = [] → (t.ver v).state = .free) ∧
        ((∀ u, u < Config.versions → u ≠ v → (s.ver u).undecided = false) → StacksQuiet s →
        ((s.ver v).lines = [] → SameBytes s t) ∧
        ∀ l h, (s.ver v).lines = [(l, h)] → h.dead = false → h.keep = 0 → s.frameRetired (l / 32) = false →
          ∀ b, t.byte b =
            if b / 128 = l ∧ h.mask.toNat.testBit (b % 128) then h.data.extractLsb' (8 * (b % 128)) 8 else s.byte b)) ∧
      (c.num 1 1 = 2 → gives (.verdict mb) [2] fun t =>
        (t.ver v).last = 2 ∧ (t.ver v).lines = [] ∧ SameBytes s t ∧ t.sheaves = s.sheaves ∧
        (t.ver v).state = if (s.runners v).isEmpty then .free else .discarding))

/-- R349, R363, R387, R433, R439, R454, R463: the other commands that end at once, each with its effect, its status and its
result; with no calibration set in flash and for an SPDM response the bytes are free. -/
def Obligations.ImmediateCommands : Prop :=
  ∀ (s : State) (mb : Nat) (c : Cmd),
    let gives := fun (i : Instr) (res : List Byte) (P : State → Prop) =>
      Completes i s fun t => Answered s t mb stOk res ∧ Journaled s t mb stOk res ∧ P t
    (Due s mb 0x01 c →
      let k := (s.regF (wMBX + 0x20) 63 32 + 1) % 2 ^ 32
      gives (.attach mb) (bytesOf 8 (s.reg wMBX).toNat ++ bytesOf 4 (s.regF (wMBX + 0x08) 31 0) ++
          bytesOf 4 (s.regF (wMBX + 0x10) 31 0) ++ bytesOf 4 k ++ bytesOf 4 s.sec.flash.lcState ++
          bytesOf 4 (s.mbMask fun b => b.state != .free) ++ bytesOf 4 (s.mbMask fun b => b.state == .done) ++
          bytesOf 8 s.tb.epoch.toNat) fun t =>
        t = { s with ctl := t.ctl, regs := t.regs } ∧ t.reg (wMBX + 0x28) = BitVec.ofNat 64 (c.num 0 8) ∧
        t.regF (wMBX + 0x20) 63 32 = k) ∧
    (Due s mb 0x15 c → gives (.stepWrite mb) [] fun t =>
      t = { s with ctl := t.ctl, steps := t.steps } ∧
      ∀ j, t.stepSlot j = if j = c.num 0 1 then { s.stepSlot j with pending := some (BitVec.ofNat 64 (c.num 8 8)) }
        else s.stepSlot j) ∧
    (Due s mb 0x16 c → gives (.coreMsg mb) [] fun t =>
      t = { s with ctl := t.ctl, cores := t.cores } ∧
      ∀ n, t.core n =
        if n < Config.cores ∧ (c.num 0 12).testBit n then
          { s.core n with pend := { (s.core n).pend with
            msg := true, msgMask := (s.core n).pend.msgMask ||| BitVec.ofNat 64 (2 ^ c.num 12 1) } }
        else s.core n) ∧
    (Due s mb 0x20 c → gives (.fabricCfg mb) [] fun t =>
      t = { s with ctl := t.ctl, regs := t.regs } ∧ t.regF (wPEL + 0x10) 23 0 = c.num 0 3 ∧
      t.regF (wPEL + 0x08) 11 8 = c.num 4 1) ∧
    (Due s mb 0x22 c →
      let l := (s.mem.retired.drop (c.num 0 2)).take 254
      gives (.retiredList mb) (bytesOf 2 s.mem.retired.length ++ bytesOf 2 l.length ++ bytesOf 4 0 ++
        l.flatMap fun f => bytesOf 8 (f * 4096)) fun t => t = { s with ctl := t.ctl }) ∧
    (Due s mb 0x23 c →
      let l := (s.fault.entries.drop (c.num 0 4)).take 63
      gives (.faultRead mb) (bytesOf 4 s.fault.held ++ bytesOf 4 l.length ++ l.flatMap HistEntry.bytes) fun t =>
        t = { s with ctl := t.ctl }) ∧
    (Due s mb 0x31 c → gives (.coreReset mb) [] fun t =>
      t = { s with ctl := t.ctl, cores := t.cores } ∧
      ∀ n, t.core n = if n = c.num 2 2 ∧ (s.core n).mode ≠ .held then { s.core n with resetting := true } else s.core n) ∧
    (Due s mb 0x34 c →
      (∀ l, s.sec.flash.cal = some l → gives (.calRead mb) ((l.drop (c.num 0 4)).take (c.num 4 2)) fun t =>
        t = { s with ctl := t.ctl }) ∧
      (s.sec.flash.cal = none → Completes (.calRead mb) s fun t =>
        t = { s with ctl := t.ctl, free := t.free } ∧ ∃ r, r.length = c.num 4 2 ∧ Answered s t mb stOk r)) ∧
    (Due s mb 0x42 c → Completes (.spdm mb) s fun t =>
      t = { s with ctl := t.ctl, sec := { s.sec with spdmMbx := t.sec.spdmMbx }, free := t.free } ∧
      ∃ r, Answered s t mb stOk (bytesOf 2 r.length ++ bytesOf 6 0 ++ r))

/-- R298, R387, R389, R391, R463: the commands that end later. Each begins once; the result of the first four waits in the mailbox
for COMMAND_COMPLETE. -/
def Obligations.LongCommands : Prop :=
  ∀ (s : State) (mb : Nat) (c : Cmd),
    let ready := fun (t : State) (st : Byte) (res : List Byte) =>
      t.mb mb = { s.mb mb with ready := some (st, res), begun := true } ∧ ∀ m, m ≠ mb → t.mb m = s.mb m
    let calOnly := fun (t : State) => t = { s with ctl := t.ctl, sec := { s.sec with flash := t.sec.flash, calChanged := true } }
    (Due s mb 0x21 c → Completes (.memAffinity mb) s fun t =>
      let hit := fun (b : Nat) => c.num 0 2 ≤ b / 2 ^ 31 ∧ b / 2 ^ 31 < c.num 0 2 + c.num 2 2
      ready t stOk [] ∧ (∀ b, (hit b → t.byte b = 0) ∧ (¬ hit b → t.byte b = s.byte b)) ∧
      (∀ sec, (hit (32 * sec) → t.poisoned sec = s.frameRetired (sec / 128)) ∧ (¬ hit (32 * sec) → t.poisoned sec = s.poisoned sec)) ∧
      ∀ j, j < 744 → (t.reg (wMEM + 0x100 + 8 * (j / 64))).toNat.testBit (j % 64) =
        if c.num 0 2 ≤ j ∧ j < c.num 0 2 + c.num 2 2 then c.num 4 1 == 1
        else (s.reg (wMEM + 0x100 + 8 * (j / 64))).toNat.testBit (j % 64)) ∧
    (∀ failed, Due s mb 0x32 c → Completes (.memRetrain mb failed) s fun t =>
      let f := failed &&& BitVec.ofNat 32 (c.num 0 4)
      t = { s with ctl := t.ctl } ∧ ready t (if f = 0 then stOk else stFailed) (bytesOf 4 f.toNat)) ∧
    (∀ measured, Due s mb 0x33 c →
      Completes (.calibrate mb 0 measured) s (fun t =>
        calOnly t ∧ ready t stOk (bytesOf 4 0) ∧ t.sec.flash.calBody = (measured ++ List.replicate 16256 0).take 16256) ∧
      ∀ failed, failed ≠ 0 → Completes (.calibrate mb failed measured) s fun t =>
        t = { s with ctl := t.ctl } ∧ ready t stFailed (bytesOf 4 failed.toNat)) ∧
    (Due s mb 0x35 c → s.sec.flash.calBody.length = 16256 → Completes (.calWrite mb) s fun t =>
      let o := c.num 0 4 - 64
      calOnly t ∧ ready t stOk [] ∧ t.sec.flash.calCount = (s.sec.flash.calCount + 1) % 2 ^ 32 ∧
      ∀ i, i < 16256 → t.sec.flash.calBody.getD i 0 =
        if o ≤ i ∧ i < o + c.num 4 2 then c.args.getD (8 + (i - o)) 0 else s.sec.flash.calBody.getD i 0) ∧
    (Due s mb 0x10 c → Completes (.submit mb) s fun t =>
      t = { s with ctl := t.ctl } ∧ t.mb mb = { s.mb mb with begun := true } ∧
      t.ctl.lists = insertList ⟨mb, c.num 0 8, c.num 8 4, 0, c.seq, false, .none, 0, false⟩ s.ctl.lists ∧
      (s.ctl.lists.Pairwise (fun j k => j.jseq ≤ k.jseq) → t.ctl.lists.Pairwise (fun j k => j.jseq ≤ k.jseq))) ∧
    (Due s mb 0x30 c →
      let u := c.num 2 2
      (c.num 0 1 = 0 → (s.core (u / 8)).active = true → Completes (.selftest mb) s fun t =>
        t = { s with ctl := t.ctl, engines := t.engines } ∧ (t.mb mb).begun = true ∧
        ∀ e, t.eng e = if e = u then { s.eng e with testDue := true, why := .command mb } else s.eng e) ∧
      (c.num 0 1 = 0 → (s.core (u / 8)).active = false → (s.eng u).state = .service → Completes (.selftest mb) s fun t =>
        (t.mb mb).begun = true ∧ (t.eng u).state = .testing ∧ (t.eng u).ok = false ∧ (t.eng u).why = .command mb) ∧
      (c.num 0 1 = 1 → Completes (.selftest mb) s fun t =>
        (t.mb mb).begun = true ∧ ⟨u, some mb, !(s.core u).active⟩ ∈ t.ctl.coreTests ∧ (t.core u).noTake = true))

/-- R386: a command whose checks no longer pass when its turn comes ends with the status of the first that fails, without its
effect. -/
def ChecksDecideCommands : Prop :=
  ∀ (s : State) (mb code : Nat) (c : Cmd) (i : Instr), Waits s mb code c → s.checkCmd mb c ≠ stOk →
    (i, code) ∈ [(Instr.attach mb, 0x01), (.submit mb, 0x10), (.sheafAdd mb, 0x11), (.sheafSet mb, 0x12), (.sheafRead mb, 0x13),
      (.verdict mb, 0x14), (.stepWrite mb, 0x15), (.coreMsg mb, 0x16), (.fabricCfg mb, 0x20), (.memAffinity mb, 0x21),
      (.retiredList mb, 0x22), (.faultRead mb, 0x23), (.selftest mb, 0x30), (.coreReset mb, 0x31), (.calRead mb, 0x34),
      (.calWrite mb, 0x35), (.deviceReset mb, 0x40), (.lcSet mb, 0x41), (.spdm mb, 0x42)] →
    Completes i s fun t =>
      t = { s with ctl := t.ctl } ∧ Answered s t mb (s.checkCmd mb c) [] ∧ Journaled s t mb (s.checkCmd mb c) []

/-- R382 to R386, R399 to R401: a mailbox from its post to its release. -/
def Obligations.MailboxProtocol : Prop := MailboxesServeCommands ∧ ChecksDecideCommands

/-! ### Resets, life cycle and recovery -/

/-- The state after a cold, warm or device reset of `s` (R438): everything at reset but the fuses, the flash with the fault
history, the remapped rows and retired frames, the lands' inputs and the test port. -/
def WasReset (s t : State) : Prop :=
  t = { State.reset with
    pending := s.pending, mem := t.mem, fault := t.fault, sec := t.sec, pins := t.pins, tb := t.tb, jtag := s.jtag,
    free := t.free } ∧
  t.mem = { Mem.reset with retired := s.mem.retired, remaps := s.mem.remaps } ∧
  t.fault = { FaultLog.reset with
    ring := s.fault.ring, ring2 := s.fault.ring2, spoilt := s.fault.spoilt, nextNum := s.fault.nextNum } ∧
  t.sec.fuses = s.sec.fuses ∧ t.sec.flash = s.sec.flash ∧ t.tb = { Timebase.reset with timeref := s.tb.timeref } ∧
  t.pins.readyN = .released ∧ t.pins.alertN = .released ∧ t.pins.faultN = .released ∧ t.pins.i3cDyn = none

/-- R393, R440, R446, R450, R451, R459, R460: DEVICE_RESET resets the device without a result; LC_SET checks nonce and signature,
then records the transition and resets; in recovery mode REC_WRITE writes the image after its erase blocks are erased, REC_COMMIT
checks it, and an accepted image is booted. -/
def Obligations.LifeCycleAndRecovery : Prop :=
  ∀ (s : State) (mb : Nat) (c : Cmd),
    (Due s mb 0x40 c → Completes (.deviceReset mb) s fun t => WasReset s t) ∧
    (Due s mb 0x41 c →
      (c.num 16 8 ≠ s.sec.nonce.toNat → Completes (.lcSet mb) s fun t =>
        Answered s t mb stFailed [1] ∧ t.sec.flash = s.sec.flash ∧ SameBytes s t ∧ t.cores = s.cores) ∧
      (c.num 16 8 = s.sec.nonce.toNat →
        pssVerify (s.lcKey c) ((c.args.drop 24).take 512) (s.lcMessage c) = false → Completes (.lcSet mb) s fun t =>
          Answered s t mb stFailed [2] ∧ t.sec.flash = s.sec.flash ∧ SameBytes s t ∧ t.cores = s.cores) ∧
      (c.num 16 8 = s.sec.nonce.toNat →
        pssVerify (s.lcKey c) ((c.args.drop 24).take 512) (s.lcMessage c) = true → Completes (.lcSet mb) s fun t =>
          WasReset { s with sec := { s.sec with flash := { s.sec.flash with
            lcPending := true, lcTarget := c.num 0 1,
            newKey := if c.num 4 2 = 1040 then some ((c.args.drop 536).take 512) else none } } } t)) ∧
    (s.romCmd 0x50 = some c →
      let o := c.num 0 4
      let d := (c.args.drop 8).take (c.num 4 2)
      let touched := fun (b : Nat) => o / 65536 ≤ b ∧ b < o / 65536 + (o % 65536 + d.length + 65535) / 65536
      Completes (.recWrite true) s (fun t => t = { s with ctl := t.ctl } ∧ Answered s t 0 stFailed []) ∧
      Completes (.recWrite false) s fun t =>
        Answered s t 0 stOk [] ∧ t = { s with ctl := t.ctl, sec := t.sec } ∧ t.sec.fuses = s.sec.fuses ∧
        ∀ a, Tab.get 0xFF t.sec.flash.image a =
          if o ≤ a ∧ a < o + d.length then d.getD (a - o) 0
          else if touched (a / 65536) ∧ s.sec.erased.has (a / 65536) = false then 0xFF
          else Tab.get 0xFF s.sec.flash.image a) ∧
    (s.romCmd 0x51 = some c →
      (s.imageFault = 0 → Completes (.recCommit false) s fun t =>
        Answered s t 0 stOk [0] ∧ t = { s with ctl := t.ctl, sec := { s.sec with imageDue := true } }) ∧
      (s.imageFault ≠ 0 → Completes (.recCommit false) s fun t =>
        Answered s t 0 stFailed (bytesOf 1 (if s.imageFault = 2 then 7 else s.imageFault)) ∧ t = { s with ctl := t.ctl }) ∧
      Completes (.recCommit true) s fun t => Answered s t 0 stFailed [7] ∧ t = { s with ctl := t.ctl }) ∧
    (s.inRecovery = true → s.sec.imageDue = true → Completes .deferredImageBoot s fun t => WasReset s t)

/-- R119, R390, R417, R420, R439: a self-test by command ends with its result and the standing it gives; a per-core reset
leaves the core at its reset values once its stores are out; a held core that is not retired is released at M. -/
def SelftestsAndCoreResets : Prop :=
  ∀ (s : State) (u mb : Nat) (entry : W64),
    let x := s.eng u
    let result := fun (t : State) (st fail : Byte) => ∃ r, (t.mb mb).ready = some (st, r) ∧ r.length = 16 ∧ r.getD 0 0 = fail
    (u < Config.engines → s.serving = true → x.state = .testing → x.idle = true → x.why = .command mb → x.lower = false →
      x.upper = false →
      (Completes (.selftestComplete false u [.none] false) s fun t =>
        (t.eng u).state = .service ∧ (t.eng u).ok = true ∧ result t stOk 0) ∧
      Completes (.selftestComplete false u [.both] false) s fun t =>
        (t.eng u).state = .retired ∧ (t.eng u).ok = false ∧ result t stFailed 1) ∧
    (∀ k fails, u < Config.cores → s.serving = true → s.ctl.coreTests.find? (fun t => t.core = u ∧ t.running) = some k →
      k.mb = some mb → s.testedWith u = [] → Completes (.selftestComplete true u [] fails) s fun t =>
        (t.core u).noTake = fails ∧ (t.core u).retired = (fails || (s.core u).retired) ∧
        t.ctl.coreTests = s.ctl.coreTests.filter (fun y => y.core != u) ∧
        result t (if fails then stFailed else stOk) (if fails then 1 else 0)) ∧
    (u < Config.cores → (s.core u).resetting = true →
      (s.bufferOut u = true → Leaves (.perCoreReset u) s) ∧
      (s.bufferOut u = false → Completes (.perCoreReset u) s fun t =>
        t.core u = { Core.reset with retired := (s.core u).retired, noTake := (s.core u).noTake } ∧ SameBytes s t)) ∧
    (u < Config.cores → s.serving = true → s.fault.fatal = false → (s.core u).mode = .held → (s.core u).retired = false →
      (s.core u).resetting = false → Completes (.coreRelease u entry) s fun t =>
        OnlyCore s t u ∧ t.core u = { Core.reset with
          mode := .running, arch := { Arch.reset with pc := entry &&& ~~~3 }, noTake := (s.core u).noTake })

/-- R119, R390, R417 to R420, R439: self-tests, and resets of one core. -/
def Obligations.UnitsReturnToService : Prop := EngineStandingChanges ∧ SelftestsAndCoreResets

/-! ### Command lists -/

/-- The list at the front stands at its record `r`, which has been read and breaks no rule of R394, while mailboxes are served. -/
structure AtRecord (s : State) (j : ListJob) (rest : List ListJob) (kind : Nat) (r : List Byte) : Prop where
  lists : s.ctl.lists = j :: rest
  here : s.atRecord j = true
  seen : j.seen = true
  inMemory : visible (j.addr + 64 * j.next) 64 = true
  good : s.spanPoisoned (j.addr + 64 * j.next) 64 = false
  bytes : s.bytesAt (j.addr + 64 * j.next) 64 = r
  fields : recordBad r = false
  kind : rnum r 0 1 = kind

/-- The record is done (R389): the list stands at the next one, or leaves with its result. -/
def RecordDone (t : State) (j : ListJob) (rest : List ListJob) : Prop :=
  if j.count ≤ j.next + 1 then
    t.ctl.lists = rest ∧
    (t.mb j.mb).ready = some (stOk, bytesOf 4 (j.next + 1) ++ bytesOf 4 0xFFFFFFFF ++ bytesOf 1 0)
  else t.ctl.lists = { j with next := j.next + 1, seen := false, hold := .none, waited := 0, stopped := false } :: rest

/-- The record waits (R389): the list stays at it, and knows what it waits for. -/
def RecordWaits (s t : State) (j : ListJob) (rest : List ListJob) (hold : ListWait) : Prop :=
  t = { s with ctl := { s.ctl with lists := { j with hold := hold } :: rest } }

/-- The record fails for a reason (R392): the list leaves with its result. -/
def RecordFails (t : State) (j : ListJob) (rest : List ListJob) (reason : Nat) : Prop :=
  t.ctl.lists = rest ∧
  (t.mb j.mb).ready = some (stFailed, bytesOf 4 (j.next + 1) ++ bytesOf 4 j.next ++ bytesOf 1 reason)

/-- The rows that act on a record, with its KIND (R394). -/
def recordRows : List (Instr × Nat) :=
  [(.task, 1), (.barrier, 2), (.barrierDeadline, 2), (.waitEpoch, 3), (.specBegin, 4), (.specEnd, 5), (.fenceRecord, 6),
   (.copy, 7), (.fill, 8), (.mark, 9)]

/-- R389, R392, R394: a record is read once, through its home slice; one that lies outside visible memory or in a poisoned sector fails with reason 7, one with a reserved
kind or field with reason 1, and one of another kind is left to its own row. -/
def RecordsAreChecked : Prop :=
  ∀ (s : State) (j : ListJob) (rest : List ListJob) (i : Instr) (kind : Nat), (i, kind) ∈ recordRows →
    s.ctl.lists = j :: rest →
    let a := j.addr + 64 * j.next
    let fails := fun (reason : Nat) => Completes i s fun t => t = { s with ctl := t.ctl } ∧ RecordFails t j rest reason
    (s.atRecord j = false → Leaves i s) ∧
    (s.atRecord j = true → visible a 64 = false → fails 7) ∧
    (s.atRecord j = true → visible a 64 = true → j.seen = false → StacksQuiet s →
      Sys2Proof.Machine.exec i s = Sys2Proof.Machine.exec i s.readRecord ∧ SameBytes s s.readRecord ∧
      s.readRecord.ctl.lists = { j with seen := true } :: rest) ∧
    (s.atRecord j = true → visible a 64 = true → j.seen = true → s.spanPoisoned a 64 = true → fails 7) ∧
    (s.atRecord j = true → visible a 64 = true → j.seen = true → s.spanPoisoned a 64 = false →
      (recordBad (s.bytesAt a 64) = true → fails 1) ∧
      (recordBad (s.bytesAt a 64) = false → rnum (s.bytesAt a 64) 0 1 ≠ kind → Leaves i s))

/-- R218 to R220, R229, R233, R242, R389: a TASK record places the task that its descriptor describes at the tail of a queue; one
for a version that was discarded is reported, one for a version without a verdict that is free fails; a bad descriptor fails,
and a full queue waits. -/
def TaskRecordsPlaceTasks : Prop :=
  ∀ (s : State) (j : ListJob) (rest : List ListJob) (r : List Byte), AtRecord s j rest 1 r → StacksQuiet s →
    let a := rnum r 8 8
    let b := s.bytesAt a 128
    let d := parseDesc a b
    let v := s.ver d.version
    let w := (s.ver d.watchv).state
    let q := s.queueFor d
    let fails := fun (reason : Nat) => Completes .task s fun t => t = { s with ctl := t.ctl } ∧ RecordFails t j rest reason
    let reads := fun (t : State) => { s with mem := t.mem, regs := t.regs, dramStacks := t.dramStacks }
    let failsRead := fun (reason : Nat) => Completes .task s fun t =>
      t = { reads t with ctl := t.ctl } ∧ SameBytes s t ∧ RecordFails t j rest reason
    let placed := fun (spec : Bool) =>
      (d.watch = true → w = .free ∨ w = .discarding → failsRead 10) ∧
      ((d.watch = true → w ≠ .free ∧ w ≠ .discarding) →
        (512 ≤ (s.queue q).length → Completes .task s fun t => t = reads t ∧ SameBytes s t) ∧
        ((s.queue q).length < 512 → Completes .task s fun t =>
          t = { reads t with
            ctl := t.ctl, queues := t.queues, live := s.live ++ [(s.nextTask, d.slot)], nextTask := s.nextTask + 1 } ∧ SameBytes s t ∧
          t.queue q = s.queue q ++ [⟨s.nextTask, d, spec⟩] ∧ (∀ p, p ≠ q → t.queue p = s.queue p) ∧ RecordDone t j rest))
    (a % 128 ≠ 0 → fails 2) ∧
    (a % 128 = 0 → visible a 128 = false → fails 7) ∧
    (a % 128 = 0 → visible a 128 = true → s.sliceFull (a / 128) = false →
      (s.spanPoisoned a 128 = true → (s.llcLine (a / 128)).valid ≠ 0 ∨ (s.llcLine (a / 128)).poison = 0 → failsRead 7) ∧
      (s.spanPoisoned a 128 = false →
      (descOk b = false → failsRead 2) ∧
      (descOk b = true →
        (d.spec = false → placed false) ∧
        (d.spec = true → v.undecided = true → placed true) ∧
        (d.spec = true → v.undecided = false → v.last = 1 → placed false) ∧
        (d.spec = true → v.undecided = false → v.last ≠ 1 → v.last ≠ 2 → failsRead 5) ∧
        (d.spec = true → v.undecided = false → v.last = 2 → Completes .task s fun t =>
          t = { reads t with ctl := t.ctl } ∧ SameBytes s t ∧ RecordDone t j rest))))

/-- R389, R394: BARRIER waits for its sheaf and fails once DEADLINE boundaries have passed; WAIT_EPOCH waits for its epoch and fails where the
timebase is or was STOPPED; FENCE waits for the tasks and copies before it; MARK posts its report. -/
def WaitingRecords : Prop :=
  ∀ (s : State) (j : ListJob) (rest : List ListJob) (r : List Byte),
    let done := fun (i : Instr) => Completes i s fun t => t = { s with ctl := t.ctl } ∧ RecordDone t j rest
    let fails := fun (i : Instr) (reason : Nat) => Completes i s fun t => t = { s with ctl := t.ctl } ∧ RecordFails t j rest reason
    (AtRecord s j rest 2 r →
      (rnum r 16 2 ≤ j.waited → fails .barrier 6 ∧ fails .barrierDeadline 6) ∧
      (j.waited < rnum r 16 2 → Leaves .barrierDeadline s ∧
        (rnum r 12 4 ≤ (s.sheaf (rnum r 8 2)).toNat → done .barrier) ∧
        ((s.sheaf (rnum r 8 2)).toNat < rnum r 12 4 →
          Completes .barrier s fun t => RecordWaits s t j rest (.barrier (rnum r 8 2) (rnum r 12 4))))) ∧
    (AtRecord s j rest 3 r →
      (s.tb.mode = .stopped ∨ j.stopped = true → fails .waitEpoch 9) ∧
      (s.tb.mode ≠ .stopped → j.stopped = false →
        (rnum r 8 6 ≤ s.tb.epoch.toNat → done .waitEpoch) ∧
        (s.tb.epoch.toNat < rnum r 8 6 → Completes .waitEpoch s fun t => RecordWaits s t j rest (.epoch (rnum r 8 6))))) ∧
    (AtRecord s j rest 6 r →
      (s.live = [] → (∀ c ∈ s.ctl.copies, c.ckpt.isSome = true) → done .fenceRecord) ∧
      (s.live ≠ [] ∨ (∃ c ∈ s.ctl.copies, c.ckpt = none) → Leaves .fenceRecord s)) ∧
    (AtRecord s j rest 9 r →
      let w := s.regF (wMBX + 0x08) 31 0
      (rnum r 1 1 = 1 → s.fenceMet = false → Leaves .mark s) ∧
      (rnum r 1 1 ≠ 1 ∨ s.fenceMet = true → (w + 2 ^ 32 - s.regF (wMBX + 0x10) 31 0) % 2 ^ 32 ≠ 2048 →
        Completes .mark s fun t =>
          t = { s with ctl := t.ctl, regs := t.regs } ∧ RecordDone t j rest ∧
          Tab.get none t.ctl.reports (w % 2048) = some ⟨0x05, 0xFFFF, BitVec.ofNat 32 j.jseq, s.tb.epoch,
            BitVec.ofNat 64 (rnum r 8 8), BitVec.ofNat 64 j.next⟩))

/-- R389, R392, R394: records of a list. -/
def Obligations.ListRecordsInOrder : Prop := RecordsAreChecked ∧ WaitingRecords

/-- R232, R240, R241, R389: SPEC_BEGIN opens a free version with its guard, SPEC_END closes an open one and applies its verdict; both
fail where the version is in another state. -/
def VersionRecords : Prop :=
  ∀ (s : State) (j : ListJob) (rest : List ListJob) (r : List Byte),
    let v := rnum r 8 1
    let x := s.ver v
    let fails := fun (i : Instr) (reason : Nat) => Completes i s fun t => t = { s with ctl := t.ctl } ∧ RecordFails t j rest reason
    (AtRecord s j rest 4 r →
      (x.state ≠ .free → fails .specBegin 3) ∧
      (x.state = .free → NoneUndecided s →
        (Config.sheaves ≤ rnum r 16 2 ∨ (s.sheaf (rnum r 16 2)).toNat < rnum r 20 4) → Completes .specBegin s fun t =>
          t = { s with ctl := t.ctl, versions := t.versions } ∧ RecordDone t j rest ∧ (∀ u, u ≠ v → t.ver u = s.ver u) ∧
          t.ver v = { Version.reset with
            state := .opened, last := x.last, cap := rnum r 19 1, guardSheaf := rnum r 16 2,
            finite := (rnum r 18 1).testBit 0, guardCount := rnum r 20 4 })) ∧
    (AtRecord s j rest 5 r →
      (x.state ≠ .opened → fails .specEnd 4) ∧
      (x.state = .opened → rnum r 9 1 = 0 ∨ x.committing = true → Completes .specEnd s fun t =>
        t = { s with ctl := t.ctl, versions := t.versions } ∧ RecordDone t j rest ∧ (∀ u, u ≠ v → t.ver u = s.ver u) ∧
        t.ver v = { x with state := .closed }) ∧
      (x.state = .opened → x.committing = false → rnum r 9 1 = 1 → Completes .specEnd s fun t =>
        RecordDone t j rest ∧ (t.ver v).last = 1 ∧ (t.ver v).undecided = false) ∧
      (x.state = .opened → x.committing = false → rnum r 9 1 = 2 → Completes .specEnd s fun t =>
        RecordDone t j rest ∧ (t.ver v).last = 2 ∧ (t.ver v).undecided = false ∧ SameBytes s t))

/-- R218 to R220, R232, R240, R241: records that place tasks and open and close versions. -/
def Obligations.TaskAndVersionRecords : Prop := TaskRecordsPlaceTasks ∧ VersionRecords

/-- R394 to R396: COPY and FILL start a copy, or fail where a range breaks the rules; a checkpoint starts one when its sheaf is
reached. -/
def CopiesStart : Prop :=
  ∀ (s : State) (j : ListJob) (rest : List ListJob) (r : List Byte) (idx d : Nat),
    let fails := fun (i : Instr) => Completes i s fun t => t = { s with ctl := t.ctl } ∧ RecordFails t j rest 8
    let starts := fun (i : Instr) (c : CopyJob) (P : State → Prop) => Completes i s fun t =>
      t = { s with ctl := t.ctl } ∧ t.ctl.copies = s.ctl.copies ++ [{ c with id := s.ctl.nextCopy }] ∧
      t.ctl.nextCopy = s.ctl.nextCopy + 1 ∧ P t
    (AtRecord s j rest 7 r →
      let src := rnum r 8 8
      let dst : W64 := BitVec.ofNat 64 (rnum r 16 8)
      let len := rnum r 24 8
      (s.copyBad src dst len = true → fails .copy) ∧
      (s.copyBad src dst len = false → s.copyDst dst = .here d →
        starts .copy ⟨0, src, dst, len, none, rnum r 32 2, rnum r 36 4, none, false, 0, j.next⟩ fun t => RecordDone t j rest)) ∧
    (AtRecord s j rest 8 r →
      let dst := rnum r 8 8
      let len := rnum r 16 8
      (fillBad dst len = true → fails .fill) ∧
      (fillBad dst len = false →
        starts .fill ⟨0, 0, BitVec.ofNat 64 dst, len, some (BitVec.ofNat 64 (rnum r 24 8)), rnum r 32 2, rnum r 36 4, none, false,
          0, j.next⟩ fun t => RecordDone t j rest)) ∧
    ((∀ c ∈ s.ctl.ckpts, c.idx = idx → c.copy = none → c.wsheaf < Config.sheaves ∧ (s.sheaf c.wsheaf).toNat < c.wcount) →
      Leaves (.checkpointCopy idx) s) ∧
    (∀ a b c, s.ctl.ckpts = a ++ c :: b → (∀ x ∈ a, x.idx ≠ idx ∨ x.copy ≠ none) → c.idx = idx → c.copy = none →
      Config.sheaves ≤ c.wsheaf ∨ c.wcount ≤ (s.sheaf c.wsheaf).toNat → s.copyDst c.dst = .here d →
        starts (.checkpointCopy idx) ⟨0, c.src, c.dst, c.len, none, c.ssheaf, 1, some idx, false, 0, idx⟩ fun t =>
          t.ctl.ckpts = a ++ { c with copy := some s.ctl.nextCopy } :: b)

/-- R395, R396: a copy completes once no store of it is outstanding: its destination holds the bytes of its source, or the
pattern of a fill, no other byte differs, its sheaf is signalled, and a checkpoint is reported. -/
def CopiesComplete : Prop :=
  ∀ (s : State) (id idx : Nat) (j : CopyJob), s.copyJob id = some j → j.bad = false → NoneUndecided s → StacksQuiet s →
    let w := s.regF (wMBX + 0x08) 31 0
    let after := fun (t : State) =>
      t.ctl.copies = s.ctl.copies.filter (fun c => c.id != id) ∧
      (∀ p, p < Config.sheaves → (t.sheaf p).toNat =
        if p = j.ssheaf then min 0xFFFFFFFF ((s.sheaf p).toNat + j.sinc) else (s.sheaf p).toNat)
    (j.ckpt = none →
      (s.copyOut id = true → Leaves (.copyComplete id) s) ∧
      (s.copyOut id = false →
        (∀ d, s.copyDst j.dst = .here d → (∀ i, i < j.len → s.frameRetired ((d + i) / 4096) = false) →
          (j.pattern = none → (j.src + j.len ≤ d ∨ d + j.len ≤ j.src) ∧ s.spanPoisoned j.src j.len = false) →
          Completes (.copyComplete id) s fun t =>
            after t ∧ ∀ b, t.byte b =
              if d ≤ b ∧ b < d + j.len then
                match j.pattern with
                | none => s.byte (j.src + (b - d))
                | some p => byteAt p ((b - d) % 8)
              else s.byte b) ∧
        (s.copyDst j.dst = .away → Completes (.copyComplete id) s fun t => after t ∧ SameBytes s t))) ∧
    (s.ctl.copies.find? (fun c => c.ckpt = some idx ∧ !s.copyOut c.id) = some j → j.id = id → s.ctl.stalled = false →
      (w + 2 ^ 32 - s.regF (wMBX + 0x10) 31 0) % 2 ^ 32 ≠ 2048 → Completes (.checkpointComplete idx) s fun t =>
        after t ∧ (s.copyDst j.dst = .away → SameBytes s t) ∧
        t.ctl.ckpts = s.ctl.ckpts.filter (fun c => c.copy != some id) ∧
        Tab.get none t.ctl.reports (w % 2048) = some ⟨0x0B, 0xFFFF, BitVec.ofNat 32 idx, s.tb.epoch, 0,
          BitVec.ofNat 64 (if s.copyDst j.dst = .away then j.moved else j.len)⟩)

/-- R394 to R396: copies, fills and checkpoints. -/
def Obligations.Copies : Prop := CopiesStart ∧ CopiesComplete

/-! ### The host -/

/-- R375, R377, R378, R414: a read through BAR2 gives committed bytes with EP where one is poisoned, or Unsupported Request
outside visible memory; a write gives them their bytes; a function reset clears the function's own state; an owed message is
sent when the hold-off is over. -/
def HostReachesMemory : Prop :=
  ∀ (s : State) (off size : Nat) (bytes : List Byte),
    (s.hostServed = true →
      let a := s.bar2Addr off
      (s.memServed = true → visible a size = true → StacksQuiet s → Completes (.bar2Read off size) s fun t =>
        t.ctl.hostData = s.bytesAt a size ∧ t.ctl.hostUr = false ∧ SameBytes s t ∧
        (s.spanPoisoned a size = false → t.ctl.hostEp = false) ∧
        ∀ b, a ≤ b → b < a + size → s.mem.poison.has (b / 32) = true ∨ s.frameRetired (b / 4096) = true → t.ctl.hostEp = true) ∧
      (s.memServed = false ∨ visible a size = false → Completes (.bar2Read off size) s fun t =>
        t = { s with ctl := t.ctl } ∧ t.ctl.hostData = [] ∧ t.ctl.hostUr = true) ∧
      (s.memServed = true → visible a bytes.length = true → StacksQuiet s → (∀ i, i < bytes.length → s.frameRetired ((a + i) / 4096) = false) →
        ∀ ep, Completes (.bar2Write off bytes ep) s fun t =>
          (∀ b, t.byte b = if a ≤ b ∧ b < a + bytes.length then bytes.getD (b - a) 0 else s.byte b) ∧
          (ep = true → ∀ b, a ≤ b → b < a + bytes.length → t.poisoned (b / 32) = true)) ∧
      (s.memServed = false ∨ visible a bytes.length = false → ∀ ep, Leaves (.bar2Write off bytes ep) s)) ∧
    (s.hostServed = false → Leaves (.bar2Read off size) s ∧ ∀ ep, Leaves (.bar2Write off bytes ep) s) ∧
    (∀ kind, Completes (.functionReset kind) s fun t =>
      t = { s with ctl := { s.ctl with configured := false, bar0At := 0, bar2At := 0, msixPend := 0, msixTable := [], bar2 := 36, aer := false } }) ∧
    (s.tb.now + 1 < s.ctl.msixAt1 + 500 → Leaves (.msixHoldoff 1) s) ∧ (s.tb.now + 1 < s.ctl.msixAt3 + 500 → Leaves (.msixHoldoff 3) s) ∧
    (s.ctl.msixOwed1 = true → s.ctl.msixAt1 + 500 ≤ s.tb.now + 1 → Completes (.msixHoldoff 1) s fun t =>
      t = { s with ctl := t.ctl } ∧ t.ctl.msixOwed1 = false ∧ t.ctl.msixAt1 = s.tb.now + 1 ∧
      t.ctl.msix = if s.ctl.configured && !s.msixMasked 1 then s.ctl.msix ++ [1] else s.ctl.msix) ∧
    (s.ctl.msixOwed3 = true → s.ctl.msixAt3 + 500 ≤ s.tb.now + 1 → Completes (.msixHoldoff 3) s fun t =>
      t = { s with ctl := t.ctl } ∧ t.ctl.msixOwed3 = false ∧ t.ctl.msixAt3 = s.tb.now + 1 ∧
      t.ctl.msix = if s.ctl.configured && !s.msixMasked 3 then s.ctl.msix ++ [3] else s.ctl.msix)

/-- R11 to R14, R16, R17, R381, R399: an access of the wrong width or alignment does nothing; a write sets a mailbox's arguments or the
writable fields of a register, and never the journal or the report ring; a read gives its doubleword and clears its RC bits,
but for an event of the same cycle. -/
def RegisterAccesses : Prop :=
  ∀ (s : State) (off size : Nat) (val ev : W64), s.hostServed = true →
    let d := off - off % 8
    let m := accessMask off size
    (accessOk off size = false → Leaves (.registerWrite (.bar off) size val) s) ∧
    (accessOk off size = true → 0x20000 ≤ off → off < 0x70000 → Leaves (.registerWrite (.bar off) size val) s) ∧
    (off < 0x20000 → off % 8 = 0 → 0x10 ≤ off % 0x1000 → off % 0x1000 < 0x800 → Completes (.registerWrite (.bar off) 8 val) s fun t =>
      t = { s with ctl := t.ctl } ∧ (∀ i, i ≠ off / 0x1000 → t.mb i = s.mb i) ∧
      ∀ k, Tab.get 0 (t.mb (off / 0x1000)).args k =
        if off % 0x1000 - 0x10 ≤ k ∧ k < off % 0x1000 - 8 then byteAt val (k - (off % 0x1000 - 0x10))
        else Tab.get 0 (s.mb (off / 0x1000)).args k) ∧
    (∀ a, a ∈ [wLLC, wPEL + 0x30, wPEL + 0x38, wSEC + 0x40, wSEC + 0x48, wSEC + 0x50, wMBX + 0x18, wMBX + 0x30] →
      d = 0x100000 + a → accessOk off size = true → Completes (.registerWrite (.bar off) size val) s fun t =>
        let w := rwBits s a &&& m
        t = { s with regs := t.regs } ∧ t.reg a = ((s.reg a &&& ~~~w) ||| (accessVal off size val &&& w)) ∧
        ∀ b, b ≠ a → t.reg b = s.reg b) ∧
    (accessOk off size = false → Completes (.rcRead (.bar off) size ev) s fun t =>
      t = { s with ctl := t.ctl } ∧ t.ctl.hostData = bytesOf size 0) ∧
    (accessOk off size = true → Completes (.rcRead (.bar off) size ev) s fun t =>
      let v := s.barRead d
      t = { s with ctl := t.ctl, regs := t.regs } ∧
      t.ctl.hostData = bytesOf size (if off % 8 = 4 then (v >>> 32).toNat else v.toNat) ∧
      (d < 0x100000 ∨ 0x180000 ≤ d → t.regs = s.regs) ∧
      (0x100000 ≤ d → d < 0x180000 →
        let rc := rcBits (d - 0x100000) &&& m
        t.reg (d - 0x100000) = ((s.reg (d - 0x100000) &&& ~~~rc) ||| (ev &&& rc)) ∧
        ∀ b, b ≠ d - 0x100000 → t.reg b = s.reg b))

/-- R1, R373, R374, R377: while PERST# is high the host reads the identity of the function, sets the size of BAR2 to 2^30 to 2^41
bytes, and lets the BARs be served by the Command register; BAR0 is not served before. -/
def ConfigurationSpace : Prop :=
  ∀ (s : State) (off size n : Nat) (val ev : W64),
    (s.linkUp = true →
      let reads := fun (r : CfgReg) (bs : List Byte) => Completes (.rcRead (.cfg r) size ev) s fun t =>
        t = { s with ctl := t.ctl } ∧ t.ctl.hostData = bs ∧ t.ctl.configured = s.ctl.configured
      let writes := fun (r : CfgReg) (c : Control) => Completes (.registerWrite (.cfg r) size val) s fun t => t = { s with ctl := c }
      reads .revision [0x00] ∧ reads .device [0x60, 0x09] ∧ reads .classCode [0x00, 0x00, 0x12] ∧
      reads .vendor (bytesOf 2 Config.vendorId.toNat) ∧ reads .barSize (bytesOf 1 s.ctl.bar2) ∧ reads .msixCount [64, 0] ∧
      reads .command (bytesOf 2 (2 * b1 s.ctl.configured)) ∧
      writes .command { s.ctl with configured := val.toNat.testBit 1 } ∧
      (∀ r ∈ [CfgReg.vendor, .device, .revision, .classCode, .capabilities, .msixCount], Leaves (.registerWrite (.cfg r) size val) s) ∧
      (val.toNat = n → 30 ≤ n → n ≤ 41 → Completes (.registerWrite (.cfg .barSize) size val) s fun t =>
        t = { s with ctl := { s.ctl with bar2 := n, bar2At := t.ctl.bar2At } }) ∧
      (val.toNat < 30 ∨ 41 < val.toNat → Leaves (.registerWrite (.cfg .barSize) size val) s)) ∧
    (s.linkUp = false → ∀ r, Leaves (.registerWrite (.cfg r) size val) s ∧ Leaves (.rcRead (.cfg r) size ev) s) ∧
    (s.hostServed = false → Leaves (.registerWrite (.bar off) size val) s ∧ Leaves (.rcRead (.bar off) size ev) s)

/-- R1, R11 to R17, R373 to R378, R414: what the host reads, writes and resets. -/
def Obligations.HostAccesses : Prop := HostReachesMemory ∧ RegisterAccesses ∧ ConfigurationSpace

/-- R372, R408, R422: a stalled control processor and a failed internal link bring the fatal state: FAULT_N is low and running cores
stop. -/
def FatalStateStops : Prop :=
  ∀ (s : State), s.firmwareRuns = true → s.fault.fatal = false →
    let fatal := fun (i : Instr) (why : Nat) (stalled : Bool) => Completes i s fun t =>
      t.fault.fatal = true ∧ t.fault.fatalWhy = why ∧ t.pins.faultN = .low ∧ t.ctl.stalled = stalled ∧ SameBytes s t ∧
      ∀ n, n < Config.cores →
        t.core n = if (s.core n).mode = .running then { s.core n with mode := .stopped } else s.core n
    (∀ p, p < 4 → s.ctl.stalled = false → fatal (.controlProcessorStall p) 1 true) ∧
    fatal (.linkFailure .dieToDie) 2 s.ctl.stalled ∧ fatal (.linkFailure .control0) 3 s.ctl.stalled ∧
    fatal (.linkFailure .control1) 4 s.ctl.stalled

/-! ### The management port -/

/-- The response of the management port, and nothing else. -/
def Responds (i : Instr) (s : State) (r : MgmtResp) : Prop :=
  Completes i s fun t => t = { s with fault := { s.fault with resp := r } }

/-- R434 to R436, R451, R480, R501: monitoring. Firmware answers for its records and sensors, returns the oldest event and takes
its acknowledgement, ALERT_N is low while one waits, and an address is assigned once. -/
def Obligations.MonitoringAnswers : Prop :=
  ∀ (s : State) (n : Nat) (on : Bool) (stat dyn : BitVec 7),
    let rest := s.fault.queue.tail
    let tail := fun (t : State) =>
      t.fault.queue = rest ∧ t.pins = { s.pins with alertN := if rest.isEmpty then .released else .low } ∧
      (s.fault.async = true → rest ≠ [] → t.fault.shown = true ∧ t.fault.sent = rest.head?)
    let moves := fun (t : State) (r : MgmtResp) =>
      t = { s with fault := { s.fault with queue := t.fault.queue, shown := t.fault.shown, sent := t.fault.sent, resp := r }, pins := t.pins }
    (s.firmwareRuns = true →
      Responds (.getPdr n) s (.pdr n) ∧
      (∀ r, s.reading n = some r → Responds (.getSensorReading n) s (.reading n r)) ∧
      (s.reading n = none → Responds (.getSensorReading n) s .failed) ∧
      Completes (.setEventReceiver on) s (fun t =>
        t = { s with fault := { s.fault with async := on, resp := .ok, shown := t.fault.shown, sent := t.fault.sent } } ∧
        (on = true → s.fault.queue ≠ [] → t.fault.shown = true ∧ t.fault.sent = s.fault.queue.head?)) ∧
      (s.fault.async = true →
        (s.fault.shown = true → Completes .platformEventMessage s fun t => moves t s.fault.resp ∧ tail t) ∧
        (s.fault.shown = false → Leaves .platformEventMessage s)) ∧
      Completes (.pollForPlatformEventMessage false) s (fun t =>
        t = { s with fault := { s.fault with resp := .event s.fault.queue.head?, shown := t.fault.shown } } ∧
        (s.fault.queue ≠ [] → t.fault.shown = true)) ∧
      (s.fault.shown = true → Completes (.pollForPlatformEventMessage true) s fun t => moves t (.event rest.head?) ∧ tail t) ∧
      (s.fault.shown = false → Completes (.pollForPlatformEventMessage true) s fun t =>
        moves t (.event s.fault.queue.head?) ∧ t.fault.queue = s.fault.queue ∧ t.pins = s.pins) ∧
      Responds (.pldmType0 n) s (.base n) ∧
      Completes (.inBandInterruptEnable on) s fun t => t = { s with fault := { s.fault with ibi := on } }) ∧
    (s.inRecovery = true → Responds (.pldmType0 n) s (.base n)) ∧
    (s.firmwareRuns = false → ∀ i ∈ [Instr.getPdr n, .getSensorReading n, .setEventReceiver on, .platformEventMessage,
      .pollForPlatformEventMessage on, .inBandInterruptEnable on], Leaves i s) ∧
    (s.pins.clocks = true →
      let gets := fun (i : Instr) => Completes i s fun t =>
        t = { s with pins := { s.pins with i3cDyn := some dyn }, fault := { s.fault with resp := .address dyn } }
      (s.pins.i3cDyn = none → gets (.entdaa dyn) ∧ (stat = s.pins.i3cStatic → gets (.setdasa stat dyn))) ∧
      (s.pins.i3cDyn ≠ none → Leaves (.entdaa dyn) s ∧ Leaves (.setdasa stat dyn) s))

/-- R444, R450 to R452: a firmware update goes from stage to stage in order, a request out of order fails; the pieces are written as
they come; an image that fails verification goes no further; activation boots the image in recovery mode and is deferred in
service. -/
def Obligations.UpdateGoesThroughStages : Prop :=
  ∀ (s : State) (c : Component) (size off : Nat) (bytes : List Byte), s.updates = true →
    let u := s.sec.upd
    let leads := fun (i : Instr) (stage : UpdStage) (r : MgmtResp) => Completes i s fun t =>
      t = { s with sec := { s.sec with upd := stage }, fault := { s.fault with resp := r } }
    (u = .idle → Completes (.requestUpdate c) s fun t =>
      t = { s with
        sec := { s.sec with upd := .learn, erased := if s.inRecovery then s.sec.erased else [] }, fault := { s.fault with resp := .ok } }) ∧
    (u = .learn → ourComponent c = true → leads (.passComponentTable c) .ready .ok) ∧
    (u = .ready → ourComponent c = true → size ≤ imageTop → Completes (.updateComponent c size) s fun t =>
      t = { s with sec := { s.sec with upd := .download, updSize := size, updNext := 0 },
                   fault := { s.fault with resp := .request 0 (min 1024 size) } }) ∧
    (u = .download → off = s.sec.updNext → bytes.length = min 1024 (s.sec.updSize - s.sec.updNext) →
      Completes (.requestFirmwareData off bytes) s fun t =>
        t = { s with sec := t.sec, fault := t.fault } ∧ t.sec.updNext = s.sec.updNext + bytes.length ∧ t.sec.upd = .download ∧
        t.fault.resp = .request t.sec.updNext (min 1024 (s.sec.updSize - t.sec.updNext)) ∧
        ∀ i, i < bytes.length → Tab.get 0xFF t.sec.flash.image (off + i) = bytes.getD i 0) ∧
    (u = .download → s.sec.updNext = s.sec.updSize → leads .transferComplete .verify .ok) ∧
    (u = .verify → s.imageFault = 0 → leads .verifyComplete .apply .ok) ∧
    (u = .verify → s.imageFault ≠ 0 → leads .verifyComplete .ready (.verifyFailed s.imageFault)) ∧
    (u = .apply → leads .applyComplete .applied .ok) ∧
    (u = .applied → s.inRecovery = false → leads .activateFirmware .idle .deferred) ∧
    (u = .applied → s.inRecovery = true → Completes .activateFirmware s fun t =>
      t = { s with sec := { s.sec with upd := .idle, imageDue := true }, fault := { s.fault with resp := .activated } }) ∧
    (u ≠ .idle → leads .cancelUpdate .idle .ok) ∧ Responds .getStatus s (.update (UpdStage.code u)) ∧
    (∀ i stage, (i, stage) ∈ [(Instr.requestUpdate c, UpdStage.idle), (.passComponentTable c, .learn),
      (.updateComponent c size, .ready), (.requestFirmwareData off bytes, .download), (.transferComplete, .download),
      (.verifyComplete, .verify), (.applyComplete, .apply), (.activateFirmware, .applied)] → u ≠ stage → Responds i s .failed) ∧
    (u = .idle → Responds .cancelUpdate s .failed)

/-- R453 to R456: SPDM on one transport. Version, capabilities and algorithms come in this order and GET_VERSION begins again; the
others are answered once algorithms are negotiated: the chain of slot 0 and its digest, measurements, and signatures by the
identity key, which signs nothing in BLANK and SCRAPPED; the other transport stays as it is. -/
def Obligations.SpdmAnswers : Prop :=
  ∀ (s : State) (tr : Transport) (slot off len idx : Nat) (nonce : List Byte), s.firmwareRuns = true →
    let x := s.spdm tr
    let leads := fun (i : Instr) (y : SpdmState) (r : MgmtResp) => Completes i s fun t =>
      t = { s.setSpdm tr y with fault := { s.fault with resp := r } } ∧ t.spdm tr = y ∧ (∀ o, o ≠ tr → t.spdm o = s.spdm o)
    let signs := fun (i : Instr) (P : List Byte → Prop) => Completes i s fun t =>
      t = { s with fault := { s.fault with resp := t.fault.resp }, free := t.free } ∧
      ∃ m, P m ∧ t.fault.resp = .signed m (Config.identitySign s.free m)
    leads (.getVersion tr) .version .version ∧
    (x = .version → leads (.getCapabilities tr) .capabilities (.capabilities [.cert, .chal, .measSig])) ∧
    (x = .capabilities → leads (.negotiateAlgorithms tr) .negotiated (.algorithms .rsassa4096 .sha512 .sha512)) ∧
    (x ≠ .version → Responds (.getCapabilities tr) s .failed) ∧
    (x ≠ .capabilities → Responds (.negotiateAlgorithms tr) s .failed) ∧
    (x = .negotiated →
      (∀ ch, s.slotChain = some ch → Responds (.getDigests tr) s (.digest (sha512 ch)) ∧
        (slot = 0 → off < ch.length → Responds (.getCertificate tr slot off len) s
          (.certificate ((ch.drop off).take len) (ch.length - off - len))) ∧
        (ch.length ≤ off → Responds (.getCertificate tr slot off len) s .failed)) ∧
      (slot ≠ 0 ∨ s.slotChain = none → Responds (.getCertificate tr slot off len) s .failed) ∧
      (s.signs = true → slot = 0 → signs (.challenge tr slot nonce) fun m => ∃ h, m = h ++ nonce) ∧
      (s.signs = true → slot ≠ 0 → Responds (.challenge tr slot nonce) s .failed) ∧
      (s.slotChain = none → Responds (.getDigests tr) s (.digest [])) ∧
      Responds (.getMeasurements tr 0 false nonce) s (.count 7) ∧
      (1 ≤ idx → idx ≤ 7 → Responds (.getMeasurements tr idx false nonce) s (.measurements [(idx, s.measurement idx)]) ∧
        (s.signs = true → signs (.getMeasurements tr idx true nonce) fun m => m = measRecord [(idx, s.measurement idx)] ++ nonce)) ∧
      (7 < idx → idx ≠ 0xFF → Responds (.getMeasurements tr idx false nonce) s .failed) ∧
      Responds (.getMeasurements tr 0xFF false nonce) s
        (.measurements ((List.range 7).map fun i => (i + 1, s.measurement (i + 1))))) ∧
    (x ≠ .negotiated → Responds (.getDigests tr) s .failed ∧ Responds (.getCertificate tr slot off len) s .failed ∧
      Responds (.getMeasurements tr idx false nonce) s .failed) ∧
    (s.signs = false → Responds (.challenge tr slot nonce) s .unsupported ∧
      Responds (.getMeasurements tr idx true nonce) s .unsupported)

/-! ### Boot and power -/

/-- R437 to R441, R444 to R449, R484, R485, R491: resets and boot. A cold reset, an assertion of PERST#, a loss of power and a
thermal trip reset the device; power down stops its clocks; PERST# high starts the boot ROM, which starts firmware with a good
image and else enters recovery mode; BOOT_READY releases the cores, but in the fatal state, and drives READY_N low. -/
def BootAndResets : Prop :=
  ∀ (s : State) (why : PowerCause),
    let s' : State := { s with jtag := Jtag.reset }
    (s.pins.tripped = true → Leaves .coldReset s) ∧
    (s.pins.tripped = false → Completes .coldReset s fun t =>
      WasReset s' t ∧ t.pins.clocks = true ∧ t.pins.pwrgood = true ∧ t.pins.perstHigh = s.pins.perstHigh ∧
      t.sec.stage = if s.pins.perstHigh && !s.pins.recoveryN then 1 else 0) ∧
    (s.running = true → Completes .warmReset s fun t => WasReset s t ∧ t.pins.perstHigh = false ∧ t.sec.stage = 0) ∧
    (s.running = false → Completes .warmReset s fun t => t = { s with pins := { s.pins with perstHigh := false } }) ∧
    (s.pins.perstHigh = true → Leaves .perstDeassertion s) ∧
    (s.pins.perstHigh = false → s.running = true →
      let p : Pins := { s.pins with
        perstHigh := true, xspiUntil := s.tb.now + 2500, strap := !s.pins.recoveryN, i3cStatic := BitVec.ofNat 7 (0x38 + 2 * b1 s.pins.sa1 + b1 s.pins.sa0) }
      (s.pins.recoveryN = true → Completes .perstDeassertion s fun t => t = { s with pins := p }) ∧
      (s.pins.recoveryN = false → Completes .perstDeassertion s fun t =>
        t.sec.stage = 1 ∧ t.sec.reason = 1 ∧ t.sec.flash = s.sec.flash ∧ SameBytes s t ∧ t.cores = s.cores)) ∧
    (s.linkUp = true → s.sec.stage = 0 →
      (s.imageFault = 0 → Completes .firmwareStart s fun t =>
        t.sec.stage = 2 ∧ t.pins.faultN = .high ∧ t.sec.flash.boots = s.sec.flash.boots + 1 ∧ t.sec.svn = s.imageWord 16 1 ∧
        SameBytes s t) ∧
      (s.imageFault ≠ 0 → Completes .firmwareStart s fun t =>
        t.sec.stage = 1 ∧ t.sec.reason = s.imageFault ∧ t.pins.faultN = .released ∧ t.sec.flash = s.sec.flash ∧ SameBytes s t)) ∧
    (s.running = true → s.sec.stage = 2 → s.pel.homeWait = [] → Completes .bootReady s fun t =>
      t.sec.stage = 3 ∧ t.pins.readyN = .low ∧ t.mem.served = true ∧ SameBytes s t ∧
      t.sec.fuses.svnFloor = (if s.sec.raise && decide (s.sec.fuses.svnFloor < s.sec.svn) then min 64 s.sec.svn
        else s.sec.fuses.svnFloor) ∧
      ∃ entry : W64, ∀ n, n < Config.cores →
        if s.fault.fatal = false ∧ (s.core n).mode = .held ∧ (s.core n).retired = false ∧ (s.core n).resetting = false then
          (t.core n).mode = .running ∧ (t.core n).arch = { Arch.reset with pc := entry }
        else t.core n = s.core n) ∧
    (s.pins.tripped = false ∨ why = .vddio → Completes (.powerLoss why) s fun t =>
      WasReset s' t ∧ t.pins.clocks = false ∧ t.pins.tripped = false ∧ t.pins.thermtripN = .released ∧
      t.pins.pwrgood = (s.pins.pwrgood && decide (why ≠ .pwrgood))) ∧
    (s.pins.tripped = true → why ≠ .vddio → Completes (.powerLoss why) s fun t =>
      t = { s with pins := { s.pins with pwrgood := s.pins.pwrgood && decide (why ≠ .pwrgood) } }) ∧
    (s.pins.clocks = true → Completes .thermalTrip s fun t =>
      WasReset s' t ∧ t.pins.clocks = false ∧ t.pins.tripped = true ∧ t.pins.thermtripN = .low) ∧
    (s.pins.clocks = false → Leaves .thermalTrip s)

/-- R489, R490, R493, R494, R496: the governor. A sample of a cluster sets its readings and its pending cap, which falls by 3 at 105 °C
and rises by 1 at 100 °C or below; a sample of power sets the pending level from the mean of the samples; hold engages when a
pending value stands below its current one. -/
def GovernorSamples : Prop :=
  ∀ (s : State), s.pins.clocks = true →
    (∀ cl t0 t1 t2 t3, cl < Config.clusters → Completes (.junctionSample cl t0 t1 t2 t3) s fun t =>
      let r := fun (k : Nat) => s.calibrated (4 * cl + k) ([t0, t1, t2, t3].getD k 0)
      let hot := max (max (r 0) (r 1)) (max (r 2) (r 3))
      let cap := Tab.get 36 s.pwr.caps cl
      (∀ k, k < 4 → Tab.get 0 t.pwr.sensors (4 * cl + k) = r k) ∧
      (∀ n, (n < 4 * cl ∨ 4 * cl + 4 ≤ n) → Tab.get 0 t.pwr.sensors n = Tab.get 0 s.pwr.sensors n) ∧
      t.pwr.caps = s.pwr.caps ∧ (∀ n, n ≠ cl → Tab.get 36 t.pwr.capsNext n = Tab.get 36 s.pwr.capsNext n) ∧
      (6720 ≤ hot → Tab.get 36 t.pwr.capsNext cl = max 6 (cap - 3)) ∧
      (hot ≤ 6400 → Tab.get 36 t.pwr.capsNext cl = min 36 (cap + 1)) ∧
      (6400 < hot → hot < 6720 → Tab.get 36 t.pwr.capsNext cl = cap)) ∧
    (∀ watts, Completes (.governorSample watts) s fun t =>
      let pe := (watts :: s.pwr.pe).take 100
      let n := pe.length
      let sum := pe.foldl (· + ·) 0
      let limit := s.regF (wMBX + 0x100) 11 0
      let top := s.regF (wMBX + 0x100) 29 24
      let within := fun (l : Nat) => max 6 (min top l)
      t.pwr.pe = pe ∧ t.pwr.level = s.pwr.level ∧
      (limit * n < sum → t.pwr.pendingLevel = within (s.pwr.level - (sum - limit * n + 60 * n - 1) / (60 * n))) ∧
      (sum < (limit - 150) * n → sum ≤ limit * n → t.pwr.pendingLevel = within (s.pwr.level + 1)) ∧
      ((limit - 150) * n ≤ sum → sum ≤ limit * n → t.pwr.pendingLevel = within s.pwr.level)) ∧
    (s.pwr.falling = true → Completes .hold s fun t =>
      t = { s with pwr := { s.pwr with hold := true }, regs := t.regs } ∧
      (t.reg (wMBX + 0x108)).toNat.testBit 62 = true) ∧
    (s.pwr.falling = false → Leaves .hold s)

/-- R372, R408, R422, R489 to R496: the fatal state, and the power governor. -/
def Obligations.FatalStateAndGovernor : Prop := FatalStateStops ∧ GovernorSamples

/-- R481: the instructions of the test port act on its own registers while PWRGOOD is high, and not at all while it is low;
SAMPLE captures the lands and PRELOAD loads the boundary register; EXTEST, HIGHZ and CLAMP act as BYPASS while PERST# is high. -/
def TestPortInstructions : Prop :=
  ∀ (s : State) (b : List Bool),
    let sets := fun (i : Instr) (j : Jtag) => Completes i s fun t => t = { s with jtag := j }
    (s.pins.pwrgood = true →
      sets .bypass { s.jtag with op := .bypass, dr := 0 } ∧ sets .idcode { s.jtag with op := .idcode, dr := idcodeWord } ∧
      Completes (.samplePreload b) s (fun t =>
        t = { s with jtag := { s.jtag with op := .sample, sample := s.lands, boundary := b }, free := t.free }) ∧
      let acts := fun (i : Instr) (op : JtagOp) (r : TestReg) => Completes i s fun t =>
        t = { s with jtag := { s.jtag with op := op, dr := t.jtag.dr } } ∧ (s.pins.perstHigh = false → t.jtag.dr = s.jtag.dr) ∧
        t.testReg = if s.pins.perstHigh then .bypass else r
      acts .extest .extest .boundary ∧ acts .highz .highz .bypass ∧ acts .clamp .clamp .bypass) ∧
    (s.pins.pwrgood = false →
      ∀ i ∈ [Instr.bypass, .idcode, .samplePreload b, .extest, .highz, .clamp], Leaves i s)

/-- R437 to R449, R481, R484, R485, R491: resets, boot, and the test port. -/
def Obligations.BootAndTestPort : Prop := BootAndResets ∧ TestPortInstructions

/-! ### Whole rules -/

/-- R58: a write that both clears a flag and sets it through FSET leaves it set. -/
def Obligations.FsetPrevailsOverClear : Prop :=
  ∀ (s : State) (n : Nat) (i : Instr) (a : BitVec 5) (k : Nat), Issues s n 4 →
    i = .fset ⟨n, []⟩ a ∨ i = .cregWr ⟨n, []⟩ ⟨0, a, 0x001⟩ → k < 7 →
    ((s.core n).arch.rg a.toNat).toNat.testBit k = true → ((s.core n).arch.rg a.toNat).toNat.testBit (24 + k) = true →
    Completes i s fun t => ((t.core n).cr nFPCSR).toNat.testBit k = true

/-- The rows that reset the whole device, in the states in which they do (R437, R450, R459). -/
def ResetsDevice (s : State) (i : Instr) : Prop :=
  (i = .coldReset ∧ s.pins.tripped = false) ∨ (i = .warmReset ∧ s.running = true) ∨
  (∃ mb c, i = .deviceReset mb ∧ Due s mb 0x40 c) ∨
  (∃ mb c, i = .lcSet mb ∧ Due s mb 0x41 c ∧ c.num 16 8 = s.sec.nonce.toNat ∧
    pssVerify (s.lcKey c) ((c.args.drop 24).take 512) (s.lcMessage c) = true) ∨
  (i = .deferredImageBoot ∧ s.inRecovery = true ∧ s.sec.imageDue = true)

/-- R368: every reset of the device sets every field of every step slot to zero with no pending value; a per-core reset
changes none. -/
def Obligations.ResetsClearStepSlots : Prop :=
  (∀ (s : State) (i : Instr), ResetsDevice s i →
    Completes i s fun t => ∀ j, t.stepSlot j = ⟨none, 0, 0⟩) ∧
  ∀ (s : State) (n : Nat), n < Config.cores → (s.core n).resetting = true → s.bufferOut n = false →
    Completes (.perCoreReset n) s fun t => t.steps = s.steps

/-- R456: each transport keeps its own connection state: a request on one leaves that of the other, and every reset but a
per-core reset returns both to their initial state. -/
def Obligations.SpdmTransportsAreApart : Prop :=
  (∀ (s : State) (a b : Transport) (slot off len idx : Nat) (sig : Bool) (nonce : List Byte), a ≠ b →
    ∀ i ∈ [Instr.getVersion a, .getCapabilities a, .negotiateAlgorithms a, .getDigests a, .getCertificate a slot off len,
      .challenge a slot nonce, .getMeasurements a idx sig nonce],
    Completes i s fun t => t.spdm b = s.spdm b) ∧
  (∀ (s : State) (mb : Nat) (c : Cmd), Due s mb 0x42 c → Completes (.spdm mb) s fun t => t.spdm .mctp = s.spdm .mctp) ∧
  (∀ (s : State) (i : Instr), ResetsDevice s i → Completes i s fun t => t.spdm .mctp = .initial ∧ t.spdm .mailbox = .initial) ∧
  ∀ (s : State) (n : Nat), n < Config.cores → (s.core n).resetting = true → s.bufferOut n = false →
    Completes (.perCoreReset n) s fun t => t.spdm .mctp = s.spdm .mctp ∧ t.spdm .mailbox = s.spdm .mailbox

/-! ### Invariants -/

/-- The registers of a core stand as R80 and R152 say: the pc is a multiple of 4 and every tile has a shape that tcfg allows. -/
def LegalArch (a : Arch) : Prop := a.pc.toNat % 4 = 0 ∧ ∀ k, Shaped (a.tile k)

/-- So do those of every core, and those to which its unsettled tile operations can return. -/
def CoresLegal (s : State) : Prop :=
  ∀ n, LegalArch (s.core n).arch ∧ ∀ o ∈ (s.core n).tops, LegalArch o.snap

/-- Every step keeps memory in its canonical form: addresses rise, and no byte equal to what an unlisted one reads as is
listed. -/
def Obligations.MemoryStaysCanonical : Prop :=
  ∀ s t : State, s.mem.wf = true → step s = .next t → t.mem.wf = true

/-- R80, R152: every step keeps every pc a multiple of 4 and every tile in a shape that tcfg allows. -/
def Obligations.CoresStayLegal : Prop :=
  ∀ s t : State, CoresLegal s → step s = .next t → CoresLegal t

/-- Memory is canonical and the cores are legal at reset. -/
def ResetMeetsInvariants : Prop := State.reset.mem.wf = true ∧ CoresLegal State.reset

/-- R94, R102, R221, R274, R331, R382: the state after a cold reset, which meets the invariants. -/
def Obligations.ResetState : Prop := ResetValues ∧ ResetMeetsInvariants
end

