-- ==== Sys2Proof/Laws/Tab.lean ====
section
/-! SUPPORT. Laws of sparse tables: a key reads as last written, every other key as before, and every operation keeps
the canonical form. The reading laws hold of any list; only the form itself needs the form. -/

namespace Sys2Proof.Machine

variable {α : Type}

theorem Tab.get_put_self (d : α) (m : Tab α) (n : Nat) (v : α) : Tab.get d (Tab.put m n v) n = v := by
  induction m with
  | nil => simp [Tab.put, Tab.get]
  | cons p t ih =>
    obtain ⟨k, w⟩ := p
    unfold Tab.put
    split
    · simp [Tab.get]
    · split
      · simp [Tab.get]
      · rename_i h1 h2
        simp [Tab.get, Ne.symm h2, ih]

theorem Tab.get_put_other (d : α) (m : Tab α) (n k : Nat) (v : α) (h : k ≠ n) :
    Tab.get d (Tab.put m n v) k = Tab.get d m k := by
  induction m with
  | nil => simp [Tab.put, Tab.get, Ne.symm h]
  | cons p t ih =>
    obtain ⟨j, w⟩ := p
    unfold Tab.put
    split
    · simp [Tab.get, Ne.symm h]
    · split
      · rename_i h2
        simp [Tab.get, ← h2, Ne.symm h]
      · simp [Tab.get, ih]

theorem Tab.get_erase_self (d : α) (m : Tab α) (n : Nat) : Tab.get d (Tab.erase m n) n = d := by
  induction m with
  | nil => rfl
  | cons p t ih =>
    obtain ⟨k, w⟩ := p
    unfold Tab.erase
    split
    · exact ih
    · rename_i h
      simp [Tab.get, h, ih]

theorem Tab.get_erase_other (d : α) (m : Tab α) (n k : Nat) (h : k ≠ n) :
    Tab.get d (Tab.erase m n) k = Tab.get d m k := by
  induction m with
  | nil => rfl
  | cons p t ih =>
    obtain ⟨j, w⟩ := p
    unfold Tab.erase
    split
    · rename_i hj
      rw [ih]
      simp [Tab.get, hj, Ne.symm h]
    · simp [Tab.get, ih]

/-- The value last written under a key. -/
@[simp] theorem Tab.get_set_self [DecidableEq α] (d : α) (m : Tab α) (n : Nat) (v : α) :
    Tab.get d (Tab.set d m n v) n = v := by
  unfold Tab.set
  split
  · rename_i h
    rw [Tab.get_erase_self, h]
  · exact Tab.get_put_self d m n v

/-- Every other key reads as before. -/
@[simp] theorem Tab.get_set_other [DecidableEq α] (d : α) (m : Tab α) (n k : Nat) (v : α) (h : k ≠ n) :
    Tab.get d (Tab.set d m n v) k = Tab.get d m k := by
  unfold Tab.set
  split
  · exact Tab.get_erase_other d m n k h
  · exact Tab.get_put_other d m n k v h

/-- Both reading laws in one. -/
theorem Tab.get_set [DecidableEq α] (d : α) (m : Tab α) (n k : Nat) (v : α) :
    Tab.get d (Tab.set d m n v) k = if k = n then v else Tab.get d m k := by
  split
  · rename_i h
    subst h
    exact Tab.get_set_self d m _ v
  · rename_i h
    exact Tab.get_set_other d m n k v h

@[simp] theorem Tab.get_nil (d : α) (k : Nat) : Tab.get d ([] : Tab α) k = d := rfl

/-- A filter by key keeps the keys that pass and empties the others. -/
theorem Tab.get_filter (d : α) (m : Tab α) (p : Nat → Bool) (k : Nat) :
    Tab.get d (List.filter (fun q : Nat × α => p q.1) m) k = if p k then Tab.get d m k else d := by
  induction m with
  | nil => simp
  | cons q t ih =>
    obtain ⟨j, w⟩ := q
    by_cases hj : p j = true
    · rw [List.filter_cons_of_pos (by simpa using hj)]
      by_cases hk : j = k
      · subst hk
        simp [Tab.get, hj]
      · simp [Tab.get, hk, ih]
    · rw [List.filter_cons_of_neg (by simpa using hj)]
      by_cases hk : j = k
      · subst hk
        simp [ih, hj]
      · simp [Tab.get, hk, ih]

/-! ### Canonical form -/

/-- The keys of a table are all above a bound. -/
theorem Tab.sorted_cons_lt (k : Nat) (v : α) (t : Tab α) :
    Tab.sorted ((k, v) :: t) = true ↔ (∀ q ∈ t, k < q.1) ∧ Tab.sorted t = true := by
  induction t generalizing k v with
  | nil => simp [Tab.sorted]
  | cons q t ih =>
    obtain ⟨j, w⟩ := q
    simp only [Tab.sorted, Bool.and_eq_true, decide_eq_true_eq]
    constructor
    · rintro ⟨h1, h2⟩
      refine ⟨?_, h2⟩
      intro q hq
      rcases List.mem_cons.mp hq with rfl | hq
      · exact h1
      · exact Nat.lt_trans h1 ((ih j w).mp h2 |>.1 q hq)
    · rintro ⟨h1, h2⟩
      exact ⟨h1 (j, w) (by simp), h2⟩

theorem Tab.mem_put (m : Tab α) (n : Nat) (v : α) (q : Nat × α) (h : q ∈ Tab.put m n v) : q = (n, v) ∨ q ∈ m := by
  induction m with
  | nil => exact .inl (by simpa [Tab.put] using h)
  | cons p t ih =>
    obtain ⟨k, w⟩ := p
    unfold Tab.put at h
    split at h
    · exact List.mem_cons.mp h
    · split at h
      · rcases List.mem_cons.mp h with h | h
        · exact .inl h
        · exact .inr (by simp [h])
      · rcases List.mem_cons.mp h with h | h
        · exact .inr (by simp [h])
        · rcases ih h with h | h
          · exact .inl h
          · exact .inr (by simp [h])

theorem Tab.sorted_put (m : Tab α) (n : Nat) (v : α) (h : Tab.sorted m = true) : Tab.sorted (Tab.put m n v) = true := by
  induction m with
  | nil => rfl
  | cons p t ih =>
    obtain ⟨k, w⟩ := p
    obtain ⟨h1, h2⟩ := (Tab.sorted_cons_lt k w t).mp h
    unfold Tab.put
    split
    · rename_i hn
      refine (Tab.sorted_cons_lt n v _).mpr ⟨?_, h⟩
      intro q hq
      rcases List.mem_cons.mp hq with rfl | hq
      · exact hn
      · exact Nat.lt_trans hn (h1 q hq)
    · split
      · rename_i hn
        subst hn
        exact (Tab.sorted_cons_lt n v t).mpr ⟨h1, h2⟩
      · rename_i h3 h4
        refine (Tab.sorted_cons_lt k w _).mpr ⟨?_, ih h2⟩
        intro q hq
        rcases Tab.mem_put t n v q hq with rfl | hq
        · show k < n
          omega
        · exact h1 q hq

theorem Tab.mem_erase (m : Tab α) (n : Nat) (q : Nat × α) (h : q ∈ Tab.erase m n) : q ∈ m := by
  induction m with
  | nil => simp [Tab.erase] at h
  | cons p t ih =>
    obtain ⟨k, w⟩ := p
    unfold Tab.erase at h
    split at h
    · exact List.mem_cons_of_mem _ (ih h)
    · rcases List.mem_cons.mp h with h | h
      · simp [h]
      · exact List.mem_cons_of_mem _ (ih h)

theorem Tab.sorted_erase (m : Tab α) (n : Nat) (h : Tab.sorted m = true) : Tab.sorted (Tab.erase m n) = true := by
  induction m with
  | nil => rfl
  | cons p t ih =>
    obtain ⟨k, w⟩ := p
    obtain ⟨h1, h2⟩ := (Tab.sorted_cons_lt k w t).mp h
    unfold Tab.erase
    split
    · exact ih h2
    · exact (Tab.sorted_cons_lt k w _).mpr ⟨fun q hq => h1 q (Tab.mem_erase t n q hq), ih h2⟩

theorem Tab.sorted_filter (m : Tab α) (p : Nat × α → Bool) (h : Tab.sorted m = true) :
    Tab.sorted (List.filter p m) = true := by
  induction m with
  | nil => rfl
  | cons q t ih =>
    obtain ⟨k, w⟩ := q
    obtain ⟨h1, h2⟩ := (Tab.sorted_cons_lt k w t).mp h
    rw [List.filter_cons]
    split
    · exact (Tab.sorted_cons_lt k w _).mpr ⟨fun q hq => h1 q (List.mem_filter.mp hq).1, ih h2⟩
    · exact ih h2

theorem Tab.wf_iff [DecidableEq α] (d : α) (m : Tab α) : Tab.wf d m = true ↔ Tab.sorted m = true ∧ ∀ q ∈ m, q.2 ≠ d := by
  simp [Tab.wf]

theorem Tab.wf_erase [DecidableEq α] (d : α) (m : Tab α) (n : Nat) (h : Tab.wf d m = true) :
    Tab.wf d (Tab.erase m n) = true := by
  obtain ⟨h1, h2⟩ := (Tab.wf_iff d m).mp h
  exact (Tab.wf_iff d _).mpr ⟨Tab.sorted_erase m n h1, fun q hq => h2 q (Tab.mem_erase m n q hq)⟩

/-- A write keeps the canonical form. -/
theorem Tab.wf_set [DecidableEq α] (d : α) (m : Tab α) (n : Nat) (v : α) (h : Tab.wf d m = true) :
    Tab.wf d (Tab.set d m n v) = true := by
  unfold Tab.set
  split
  · exact Tab.wf_erase d m n h
  · rename_i hv
    obtain ⟨h1, h2⟩ := (Tab.wf_iff d m).mp h
    refine (Tab.wf_iff d _).mpr ⟨Tab.sorted_put m n v h1, ?_⟩
    intro q hq
    rcases Tab.mem_put m n v q hq with rfl | hq
    · exact hv
    · exact h2 q hq

theorem Tab.wf_filter [DecidableEq α] (d : α) (m : Tab α) (p : Nat × α → Bool) (h : Tab.wf d m = true) :
    Tab.wf d (List.filter p m) = true := by
  obtain ⟨h1, h2⟩ := (Tab.wf_iff d m).mp h
  exact (Tab.wf_iff d _).mpr ⟨Tab.sorted_filter m p h1, fun q hq => h2 q (List.mem_filter.mp hq).1⟩

/-- The form makes equal reads equal data: no table in it holds a default. -/
theorem Tab.get_ne_default [DecidableEq α] (d : α) (m : Tab α) (h : Tab.wf d m = true) (q : Nat × α) (hq : q ∈ m) :
    Tab.get d m q.1 = q.2 := by
  obtain ⟨h1, -⟩ := (Tab.wf_iff d m).mp h
  clear h
  induction m with
  | nil => simp at hq
  | cons p t ih =>
    obtain ⟨k, w⟩ := p
    obtain ⟨h2, h3⟩ := (Tab.sorted_cons_lt k w t).mp h1
    rcases List.mem_cons.mp hq with rfl | hq
    · simp [Tab.get]
    · have := h2 q hq
      simp only [Tab.get]
      rw [if_neg (by omega)]
      exact ih hq h3

end Sys2Proof.Machine
end

