-- ==== Sys2Proof/Laws/State.lean ====
section
/-! SUPPORT. Laws of the state: what each update leaves of every field (by rfl), and what a unit reads as after it. -/

namespace Sys2Proof.Machine

variable (s : State)

/-! ### setCore -/

@[simp] theorem State.setCore_pending (n : Nat) (c : Core) : (s.setCore n c).pending = s.pending := rfl
@[simp] theorem State.setCore_engines (n : Nat) (c : Core) : (s.setCore n c).engines = s.engines := rfl
@[simp] theorem State.setCore_pools (n : Nat) (c : Core) : (s.setCore n c).pools = s.pools := rfl
@[simp] theorem State.setCore_mem (n : Nat) (c : Core) : (s.setCore n c).mem = s.mem := rfl
@[simp] theorem State.setCore_dramStacks (n : Nat) (c : Core) : (s.setCore n c).dramStacks = s.dramStacks := rfl
@[simp] theorem State.setCore_versions (n : Nat) (c : Core) : (s.setCore n c).versions = s.versions := rfl
@[simp] theorem State.setCore_queues (n : Nat) (c : Core) : (s.setCore n c).queues = s.queues := rfl
@[simp] theorem State.setCore_live (n : Nat) (c : Core) : (s.setCore n c).live = s.live := rfl
@[simp] theorem State.setCore_nextTask (n : Nat) (c : Core) : (s.setCore n c).nextTask = s.nextTask := rfl
@[simp] theorem State.setCore_sheaves (n : Nat) (c : Core) : (s.setCore n c).sheaves = s.sheaves := rfl
@[simp] theorem State.setCore_steps (n : Nat) (c : Core) : (s.setCore n c).steps = s.steps := rfl
@[simp] theorem State.setCore_tb (n : Nat) (c : Core) : (s.setCore n c).tb = s.tb := rfl
@[simp] theorem State.setCore_pel (n : Nat) (c : Core) : (s.setCore n c).pel = s.pel := rfl
@[simp] theorem State.setCore_ctl (n : Nat) (c : Core) : (s.setCore n c).ctl = s.ctl := rfl
@[simp] theorem State.setCore_fault (n : Nat) (c : Core) : (s.setCore n c).fault = s.fault := rfl
@[simp] theorem State.setCore_sec (n : Nat) (c : Core) : (s.setCore n c).sec = s.sec := rfl
@[simp] theorem State.setCore_pins (n : Nat) (c : Core) : (s.setCore n c).pins = s.pins := rfl
@[simp] theorem State.setCore_pwr (n : Nat) (c : Core) : (s.setCore n c).pwr = s.pwr := rfl
@[simp] theorem State.setCore_jtag (n : Nat) (c : Core) : (s.setCore n c).jtag = s.jtag := rfl
@[simp] theorem State.setCore_regs (n : Nat) (c : Core) : (s.setCore n c).regs = s.regs := rfl
@[simp] theorem State.setCore_free (n : Nat) (c : Core) : (s.setCore n c).free = s.free := rfl

/-! ### setEng -/

@[simp] theorem State.setEng_pending (n : Nat) (e : Engine) : (s.setEng n e).pending = s.pending := rfl
@[simp] theorem State.setEng_cores (n : Nat) (e : Engine) : (s.setEng n e).cores = s.cores := rfl
@[simp] theorem State.setEng_pools (n : Nat) (e : Engine) : (s.setEng n e).pools = s.pools := rfl
@[simp] theorem State.setEng_mem (n : Nat) (e : Engine) : (s.setEng n e).mem = s.mem := rfl
@[simp] theorem State.setEng_dramStacks (n : Nat) (e : Engine) : (s.setEng n e).dramStacks = s.dramStacks := rfl
@[simp] theorem State.setEng_versions (n : Nat) (e : Engine) : (s.setEng n e).versions = s.versions := rfl
@[simp] theorem State.setEng_queues (n : Nat) (e : Engine) : (s.setEng n e).queues = s.queues := rfl
@[simp] theorem State.setEng_live (n : Nat) (e : Engine) : (s.setEng n e).live = s.live := rfl
@[simp] theorem State.setEng_nextTask (n : Nat) (e : Engine) : (s.setEng n e).nextTask = s.nextTask := rfl
@[simp] theorem State.setEng_sheaves (n : Nat) (e : Engine) : (s.setEng n e).sheaves = s.sheaves := rfl
@[simp] theorem State.setEng_steps (n : Nat) (e : Engine) : (s.setEng n e).steps = s.steps := rfl
@[simp] theorem State.setEng_tb (n : Nat) (e : Engine) : (s.setEng n e).tb = s.tb := rfl
@[simp] theorem State.setEng_pel (n : Nat) (e : Engine) : (s.setEng n e).pel = s.pel := rfl
@[simp] theorem State.setEng_ctl (n : Nat) (e : Engine) : (s.setEng n e).ctl = s.ctl := rfl
@[simp] theorem State.setEng_fault (n : Nat) (e : Engine) : (s.setEng n e).fault = s.fault := rfl
@[simp] theorem State.setEng_sec (n : Nat) (e : Engine) : (s.setEng n e).sec = s.sec := rfl
@[simp] theorem State.setEng_pins (n : Nat) (e : Engine) : (s.setEng n e).pins = s.pins := rfl
@[simp] theorem State.setEng_pwr (n : Nat) (e : Engine) : (s.setEng n e).pwr = s.pwr := rfl
@[simp] theorem State.setEng_jtag (n : Nat) (e : Engine) : (s.setEng n e).jtag = s.jtag := rfl
@[simp] theorem State.setEng_regs (n : Nat) (e : Engine) : (s.setEng n e).regs = s.regs := rfl
@[simp] theorem State.setEng_free (n : Nat) (e : Engine) : (s.setEng n e).free = s.free := rfl

/-! ### setPool -/

@[simp] theorem State.setPool_pending (n : Nat) (p : Pool) : (s.setPool n p).pending = s.pending := rfl
@[simp] theorem State.setPool_cores (n : Nat) (p : Pool) : (s.setPool n p).cores = s.cores := rfl
@[simp] theorem State.setPool_engines (n : Nat) (p : Pool) : (s.setPool n p).engines = s.engines := rfl
@[simp] theorem State.setPool_mem (n : Nat) (p : Pool) : (s.setPool n p).mem = s.mem := rfl
@[simp] theorem State.setPool_dramStacks (n : Nat) (p : Pool) : (s.setPool n p).dramStacks = s.dramStacks := rfl
@[simp] theorem State.setPool_versions (n : Nat) (p : Pool) : (s.setPool n p).versions = s.versions := rfl
@[simp] theorem State.setPool_queues (n : Nat) (p : Pool) : (s.setPool n p).queues = s.queues := rfl
@[simp] theorem State.setPool_live (n : Nat) (p : Pool) : (s.setPool n p).live = s.live := rfl
@[simp] theorem State.setPool_nextTask (n : Nat) (p : Pool) : (s.setPool n p).nextTask = s.nextTask := rfl
@[simp] theorem State.setPool_sheaves (n : Nat) (p : Pool) : (s.setPool n p).sheaves = s.sheaves := rfl
@[simp] theorem State.setPool_steps (n : Nat) (p : Pool) : (s.setPool n p).steps = s.steps := rfl
@[simp] theorem State.setPool_tb (n : Nat) (p : Pool) : (s.setPool n p).tb = s.tb := rfl
@[simp] theorem State.setPool_pel (n : Nat) (p : Pool) : (s.setPool n p).pel = s.pel := rfl
@[simp] theorem State.setPool_ctl (n : Nat) (p : Pool) : (s.setPool n p).ctl = s.ctl := rfl
@[simp] theorem State.setPool_fault (n : Nat) (p : Pool) : (s.setPool n p).fault = s.fault := rfl
@[simp] theorem State.setPool_sec (n : Nat) (p : Pool) : (s.setPool n p).sec = s.sec := rfl
@[simp] theorem State.setPool_pins (n : Nat) (p : Pool) : (s.setPool n p).pins = s.pins := rfl
@[simp] theorem State.setPool_pwr (n : Nat) (p : Pool) : (s.setPool n p).pwr = s.pwr := rfl
@[simp] theorem State.setPool_jtag (n : Nat) (p : Pool) : (s.setPool n p).jtag = s.jtag := rfl
@[simp] theorem State.setPool_regs (n : Nat) (p : Pool) : (s.setPool n p).regs = s.regs := rfl
@[simp] theorem State.setPool_free (n : Nat) (p : Pool) : (s.setPool n p).free = s.free := rfl

/-! ### setStack -/

@[simp] theorem State.setStack_pending (n : Nat) (p : Stack) : (s.setStack n p).pending = s.pending := rfl
@[simp] theorem State.setStack_cores (n : Nat) (p : Stack) : (s.setStack n p).cores = s.cores := rfl
@[simp] theorem State.setStack_engines (n : Nat) (p : Stack) : (s.setStack n p).engines = s.engines := rfl
@[simp] theorem State.setStack_pools (n : Nat) (p : Stack) : (s.setStack n p).pools = s.pools := rfl
@[simp] theorem State.setStack_mem (n : Nat) (p : Stack) : (s.setStack n p).mem = s.mem := rfl
@[simp] theorem State.setStack_versions (n : Nat) (p : Stack) : (s.setStack n p).versions = s.versions := rfl
@[simp] theorem State.setStack_queues (n : Nat) (p : Stack) : (s.setStack n p).queues = s.queues := rfl
@[simp] theorem State.setStack_live (n : Nat) (p : Stack) : (s.setStack n p).live = s.live := rfl
@[simp] theorem State.setStack_nextTask (n : Nat) (p : Stack) : (s.setStack n p).nextTask = s.nextTask := rfl
@[simp] theorem State.setStack_sheaves (n : Nat) (p : Stack) : (s.setStack n p).sheaves = s.sheaves := rfl
@[simp] theorem State.setStack_steps (n : Nat) (p : Stack) : (s.setStack n p).steps = s.steps := rfl
@[simp] theorem State.setStack_tb (n : Nat) (p : Stack) : (s.setStack n p).tb = s.tb := rfl
@[simp] theorem State.setStack_pel (n : Nat) (p : Stack) : (s.setStack n p).pel = s.pel := rfl
@[simp] theorem State.setStack_ctl (n : Nat) (p : Stack) : (s.setStack n p).ctl = s.ctl := rfl
@[simp] theorem State.setStack_fault (n : Nat) (p : Stack) : (s.setStack n p).fault = s.fault := rfl
@[simp] theorem State.setStack_sec (n : Nat) (p : Stack) : (s.setStack n p).sec = s.sec := rfl
@[simp] theorem State.setStack_pins (n : Nat) (p : Stack) : (s.setStack n p).pins = s.pins := rfl
@[simp] theorem State.setStack_pwr (n : Nat) (p : Stack) : (s.setStack n p).pwr = s.pwr := rfl
@[simp] theorem State.setStack_jtag (n : Nat) (p : Stack) : (s.setStack n p).jtag = s.jtag := rfl
@[simp] theorem State.setStack_regs (n : Nat) (p : Stack) : (s.setStack n p).regs = s.regs := rfl
@[simp] theorem State.setStack_free (n : Nat) (p : Stack) : (s.setStack n p).free = s.free := rfl

/-! ### setVer -/

@[simp] theorem State.setVer_pending (n : Nat) (v : Version) : (s.setVer n v).pending = s.pending := rfl
@[simp] theorem State.setVer_cores (n : Nat) (v : Version) : (s.setVer n v).cores = s.cores := rfl
@[simp] theorem State.setVer_engines (n : Nat) (v : Version) : (s.setVer n v).engines = s.engines := rfl
@[simp] theorem State.setVer_pools (n : Nat) (v : Version) : (s.setVer n v).pools = s.pools := rfl
@[simp] theorem State.setVer_mem (n : Nat) (v : Version) : (s.setVer n v).mem = s.mem := rfl
@[simp] theorem State.setVer_dramStacks (n : Nat) (v : Version) : (s.setVer n v).dramStacks = s.dramStacks := rfl
@[simp] theorem State.setVer_queues (n : Nat) (v : Version) : (s.setVer n v).queues = s.queues := rfl
@[simp] theorem State.setVer_live (n : Nat) (v : Version) : (s.setVer n v).live = s.live := rfl
@[simp] theorem State.setVer_nextTask (n : Nat) (v : Version) : (s.setVer n v).nextTask = s.nextTask := rfl
@[simp] theorem State.setVer_sheaves (n : Nat) (v : Version) : (s.setVer n v).sheaves = s.sheaves := rfl
@[simp] theorem State.setVer_steps (n : Nat) (v : Version) : (s.setVer n v).steps = s.steps := rfl
@[simp] theorem State.setVer_tb (n : Nat) (v : Version) : (s.setVer n v).tb = s.tb := rfl
@[simp] theorem State.setVer_pel (n : Nat) (v : Version) : (s.setVer n v).pel = s.pel := rfl
@[simp] theorem State.setVer_ctl (n : Nat) (v : Version) : (s.setVer n v).ctl = s.ctl := rfl
@[simp] theorem State.setVer_fault (n : Nat) (v : Version) : (s.setVer n v).fault = s.fault := rfl
@[simp] theorem State.setVer_sec (n : Nat) (v : Version) : (s.setVer n v).sec = s.sec := rfl
@[simp] theorem State.setVer_pins (n : Nat) (v : Version) : (s.setVer n v).pins = s.pins := rfl
@[simp] theorem State.setVer_pwr (n : Nat) (v : Version) : (s.setVer n v).pwr = s.pwr := rfl
@[simp] theorem State.setVer_jtag (n : Nat) (v : Version) : (s.setVer n v).jtag = s.jtag := rfl
@[simp] theorem State.setVer_regs (n : Nat) (v : Version) : (s.setVer n v).regs = s.regs := rfl
@[simp] theorem State.setVer_free (n : Nat) (v : Version) : (s.setVer n v).free = s.free := rfl

/-! ### setQueue -/

@[simp] theorem State.setQueue_pending (n : Nat) (q : List QTask) : (s.setQueue n q).pending = s.pending := rfl
@[simp] theorem State.setQueue_cores (n : Nat) (q : List QTask) : (s.setQueue n q).cores = s.cores := rfl
@[simp] theorem State.setQueue_engines (n : Nat) (q : List QTask) : (s.setQueue n q).engines = s.engines := rfl
@[simp] theorem State.setQueue_pools (n : Nat) (q : List QTask) : (s.setQueue n q).pools = s.pools := rfl
@[simp] theorem State.setQueue_mem (n : Nat) (q : List QTask) : (s.setQueue n q).mem = s.mem := rfl
@[simp] theorem State.setQueue_dramStacks (n : Nat) (q : List QTask) : (s.setQueue n q).dramStacks = s.dramStacks := rfl
@[simp] theorem State.setQueue_versions (n : Nat) (q : List QTask) : (s.setQueue n q).versions = s.versions := rfl
@[simp] theorem State.setQueue_live (n : Nat) (q : List QTask) : (s.setQueue n q).live = s.live := rfl
@[simp] theorem State.setQueue_nextTask (n : Nat) (q : List QTask) : (s.setQueue n q).nextTask = s.nextTask := rfl
@[simp] theorem State.setQueue_sheaves (n : Nat) (q : List QTask) : (s.setQueue n q).sheaves = s.sheaves := rfl
@[simp] theorem State.setQueue_steps (n : Nat) (q : List QTask) : (s.setQueue n q).steps = s.steps := rfl
@[simp] theorem State.setQueue_tb (n : Nat) (q : List QTask) : (s.setQueue n q).tb = s.tb := rfl
@[simp] theorem State.setQueue_pel (n : Nat) (q : List QTask) : (s.setQueue n q).pel = s.pel := rfl
@[simp] theorem State.setQueue_ctl (n : Nat) (q : List QTask) : (s.setQueue n q).ctl = s.ctl := rfl
@[simp] theorem State.setQueue_fault (n : Nat) (q : List QTask) : (s.setQueue n q).fault = s.fault := rfl
@[simp] theorem State.setQueue_sec (n : Nat) (q : List QTask) : (s.setQueue n q).sec = s.sec := rfl
@[simp] theorem State.setQueue_pins (n : Nat) (q : List QTask) : (s.setQueue n q).pins = s.pins := rfl
@[simp] theorem State.setQueue_pwr (n : Nat) (q : List QTask) : (s.setQueue n q).pwr = s.pwr := rfl
@[simp] theorem State.setQueue_jtag (n : Nat) (q : List QTask) : (s.setQueue n q).jtag = s.jtag := rfl
@[simp] theorem State.setQueue_regs (n : Nat) (q : List QTask) : (s.setQueue n q).regs = s.regs := rfl
@[simp] theorem State.setQueue_free (n : Nat) (q : List QTask) : (s.setQueue n q).free = s.free := rfl

/-! ### setSheaf -/

@[simp] theorem State.setSheaf_pending (n : Nat) (v : W32) : (s.setSheaf n v).pending = s.pending := rfl
@[simp] theorem State.setSheaf_cores (n : Nat) (v : W32) : (s.setSheaf n v).cores = s.cores := rfl
@[simp] theorem State.setSheaf_engines (n : Nat) (v : W32) : (s.setSheaf n v).engines = s.engines := rfl
@[simp] theorem State.setSheaf_pools (n : Nat) (v : W32) : (s.setSheaf n v).pools = s.pools := rfl
@[simp] theorem State.setSheaf_mem (n : Nat) (v : W32) : (s.setSheaf n v).mem = s.mem := rfl
@[simp] theorem State.setSheaf_dramStacks (n : Nat) (v : W32) : (s.setSheaf n v).dramStacks = s.dramStacks := rfl
@[simp] theorem State.setSheaf_versions (n : Nat) (v : W32) : (s.setSheaf n v).versions = s.versions := rfl
@[simp] theorem State.setSheaf_queues (n : Nat) (v : W32) : (s.setSheaf n v).queues = s.queues := rfl
@[simp] theorem State.setSheaf_live (n : Nat) (v : W32) : (s.setSheaf n v).live = s.live := rfl
@[simp] theorem State.setSheaf_nextTask (n : Nat) (v : W32) : (s.setSheaf n v).nextTask = s.nextTask := rfl
@[simp] theorem State.setSheaf_steps (n : Nat) (v : W32) : (s.setSheaf n v).steps = s.steps := rfl
@[simp] theorem State.setSheaf_tb (n : Nat) (v : W32) : (s.setSheaf n v).tb = s.tb := rfl
@[simp] theorem State.setSheaf_pel (n : Nat) (v : W32) : (s.setSheaf n v).pel = s.pel := rfl
@[simp] theorem State.setSheaf_ctl (n : Nat) (v : W32) : (s.setSheaf n v).ctl = s.ctl := rfl
@[simp] theorem State.setSheaf_fault (n : Nat) (v : W32) : (s.setSheaf n v).fault = s.fault := rfl
@[simp] theorem State.setSheaf_sec (n : Nat) (v : W32) : (s.setSheaf n v).sec = s.sec := rfl
@[simp] theorem State.setSheaf_pins (n : Nat) (v : W32) : (s.setSheaf n v).pins = s.pins := rfl
@[simp] theorem State.setSheaf_pwr (n : Nat) (v : W32) : (s.setSheaf n v).pwr = s.pwr := rfl
@[simp] theorem State.setSheaf_jtag (n : Nat) (v : W32) : (s.setSheaf n v).jtag = s.jtag := rfl
@[simp] theorem State.setSheaf_regs (n : Nat) (v : W32) : (s.setSheaf n v).regs = s.regs := rfl
@[simp] theorem State.setSheaf_free (n : Nat) (v : W32) : (s.setSheaf n v).free = s.free := rfl

/-! ### setStepSlot -/

@[simp] theorem State.setStepSlot_pending (n : Nat) (v : StepSlot) : (s.setStepSlot n v).pending = s.pending := rfl
@[simp] theorem State.setStepSlot_cores (n : Nat) (v : StepSlot) : (s.setStepSlot n v).cores = s.cores := rfl
@[simp] theorem State.setStepSlot_engines (n : Nat) (v : StepSlot) : (s.setStepSlot n v).engines = s.engines := rfl
@[simp] theorem State.setStepSlot_pools (n : Nat) (v : StepSlot) : (s.setStepSlot n v).pools = s.pools := rfl
@[simp] theorem State.setStepSlot_mem (n : Nat) (v : StepSlot) : (s.setStepSlot n v).mem = s.mem := rfl
@[simp] theorem State.setStepSlot_dramStacks (n : Nat) (v : StepSlot) : (s.setStepSlot n v).dramStacks = s.dramStacks := rfl
@[simp] theorem State.setStepSlot_versions (n : Nat) (v : StepSlot) : (s.setStepSlot n v).versions = s.versions := rfl
@[simp] theorem State.setStepSlot_queues (n : Nat) (v : StepSlot) : (s.setStepSlot n v).queues = s.queues := rfl
@[simp] theorem State.setStepSlot_live (n : Nat) (v : StepSlot) : (s.setStepSlot n v).live = s.live := rfl
@[simp] theorem State.setStepSlot_nextTask (n : Nat) (v : StepSlot) : (s.setStepSlot n v).nextTask = s.nextTask := rfl
@[simp] theorem State.setStepSlot_sheaves (n : Nat) (v : StepSlot) : (s.setStepSlot n v).sheaves = s.sheaves := rfl
@[simp] theorem State.setStepSlot_tb (n : Nat) (v : StepSlot) : (s.setStepSlot n v).tb = s.tb := rfl
@[simp] theorem State.setStepSlot_pel (n : Nat) (v : StepSlot) : (s.setStepSlot n v).pel = s.pel := rfl
@[simp] theorem State.setStepSlot_ctl (n : Nat) (v : StepSlot) : (s.setStepSlot n v).ctl = s.ctl := rfl
@[simp] theorem State.setStepSlot_fault (n : Nat) (v : StepSlot) : (s.setStepSlot n v).fault = s.fault := rfl
@[simp] theorem State.setStepSlot_sec (n : Nat) (v : StepSlot) : (s.setStepSlot n v).sec = s.sec := rfl
@[simp] theorem State.setStepSlot_pins (n : Nat) (v : StepSlot) : (s.setStepSlot n v).pins = s.pins := rfl
@[simp] theorem State.setStepSlot_pwr (n : Nat) (v : StepSlot) : (s.setStepSlot n v).pwr = s.pwr := rfl
@[simp] theorem State.setStepSlot_jtag (n : Nat) (v : StepSlot) : (s.setStepSlot n v).jtag = s.jtag := rfl
@[simp] theorem State.setStepSlot_regs (n : Nat) (v : StepSlot) : (s.setStepSlot n v).regs = s.regs := rfl
@[simp] theorem State.setStepSlot_free (n : Nat) (v : StepSlot) : (s.setStepSlot n v).free = s.free := rfl

/-! ### setMb -/

@[simp] theorem State.setMb_pending (n : Nat) (m : Mailbox) : (s.setMb n m).pending = s.pending := rfl
@[simp] theorem State.setMb_cores (n : Nat) (m : Mailbox) : (s.setMb n m).cores = s.cores := rfl
@[simp] theorem State.setMb_engines (n : Nat) (m : Mailbox) : (s.setMb n m).engines = s.engines := rfl
@[simp] theorem State.setMb_pools (n : Nat) (m : Mailbox) : (s.setMb n m).pools = s.pools := rfl
@[simp] theorem State.setMb_mem (n : Nat) (m : Mailbox) : (s.setMb n m).mem = s.mem := rfl
@[simp] theorem State.setMb_dramStacks (n : Nat) (m : Mailbox) : (s.setMb n m).dramStacks = s.dramStacks := rfl
@[simp] theorem State.setMb_versions (n : Nat) (m : Mailbox) : (s.setMb n m).versions = s.versions := rfl
@[simp] theorem State.setMb_queues (n : Nat) (m : Mailbox) : (s.setMb n m).queues = s.queues := rfl
@[simp] theorem State.setMb_live (n : Nat) (m : Mailbox) : (s.setMb n m).live = s.live := rfl
@[simp] theorem State.setMb_nextTask (n : Nat) (m : Mailbox) : (s.setMb n m).nextTask = s.nextTask := rfl
@[simp] theorem State.setMb_sheaves (n : Nat) (m : Mailbox) : (s.setMb n m).sheaves = s.sheaves := rfl
@[simp] theorem State.setMb_steps (n : Nat) (m : Mailbox) : (s.setMb n m).steps = s.steps := rfl
@[simp] theorem State.setMb_tb (n : Nat) (m : Mailbox) : (s.setMb n m).tb = s.tb := rfl
@[simp] theorem State.setMb_pel (n : Nat) (m : Mailbox) : (s.setMb n m).pel = s.pel := rfl
@[simp] theorem State.setMb_fault (n : Nat) (m : Mailbox) : (s.setMb n m).fault = s.fault := rfl
@[simp] theorem State.setMb_sec (n : Nat) (m : Mailbox) : (s.setMb n m).sec = s.sec := rfl
@[simp] theorem State.setMb_pins (n : Nat) (m : Mailbox) : (s.setMb n m).pins = s.pins := rfl
@[simp] theorem State.setMb_pwr (n : Nat) (m : Mailbox) : (s.setMb n m).pwr = s.pwr := rfl
@[simp] theorem State.setMb_jtag (n : Nat) (m : Mailbox) : (s.setMb n m).jtag = s.jtag := rfl
@[simp] theorem State.setMb_regs (n : Nat) (m : Mailbox) : (s.setMb n m).regs = s.regs := rfl
@[simp] theorem State.setMb_free (n : Nat) (m : Mailbox) : (s.setMb n m).free = s.free := rfl

/-! ### setPort -/

@[simp] theorem State.setPort_pending (n : Nat) (p : Port) : (s.setPort n p).pending = s.pending := rfl
@[simp] theorem State.setPort_cores (n : Nat) (p : Port) : (s.setPort n p).cores = s.cores := rfl
@[simp] theorem State.setPort_engines (n : Nat) (p : Port) : (s.setPort n p).engines = s.engines := rfl
@[simp] theorem State.setPort_pools (n : Nat) (p : Port) : (s.setPort n p).pools = s.pools := rfl
@[simp] theorem State.setPort_mem (n : Nat) (p : Port) : (s.setPort n p).mem = s.mem := rfl
@[simp] theorem State.setPort_dramStacks (n : Nat) (p : Port) : (s.setPort n p).dramStacks = s.dramStacks := rfl
@[simp] theorem State.setPort_versions (n : Nat) (p : Port) : (s.setPort n p).versions = s.versions := rfl
@[simp] theorem State.setPort_queues (n : Nat) (p : Port) : (s.setPort n p).queues = s.queues := rfl
@[simp] theorem State.setPort_live (n : Nat) (p : Port) : (s.setPort n p).live = s.live := rfl
@[simp] theorem State.setPort_nextTask (n : Nat) (p : Port) : (s.setPort n p).nextTask = s.nextTask := rfl
@[simp] theorem State.setPort_sheaves (n : Nat) (p : Port) : (s.setPort n p).sheaves = s.sheaves := rfl
@[simp] theorem State.setPort_steps (n : Nat) (p : Port) : (s.setPort n p).steps = s.steps := rfl
@[simp] theorem State.setPort_tb (n : Nat) (p : Port) : (s.setPort n p).tb = s.tb := rfl
@[simp] theorem State.setPort_ctl (n : Nat) (p : Port) : (s.setPort n p).ctl = s.ctl := rfl
@[simp] theorem State.setPort_fault (n : Nat) (p : Port) : (s.setPort n p).fault = s.fault := rfl
@[simp] theorem State.setPort_sec (n : Nat) (p : Port) : (s.setPort n p).sec = s.sec := rfl
@[simp] theorem State.setPort_pins (n : Nat) (p : Port) : (s.setPort n p).pins = s.pins := rfl
@[simp] theorem State.setPort_pwr (n : Nat) (p : Port) : (s.setPort n p).pwr = s.pwr := rfl
@[simp] theorem State.setPort_jtag (n : Nat) (p : Port) : (s.setPort n p).jtag = s.jtag := rfl
@[simp] theorem State.setPort_regs (n : Nat) (p : Port) : (s.setPort n p).regs = s.regs := rfl
@[simp] theorem State.setPort_free (n : Nat) (p : Port) : (s.setPort n p).free = s.free := rfl

/-! ### setReg -/

@[simp] theorem State.setReg_pending (a : Nat) (v : W64) : (s.setReg a v).pending = s.pending := rfl
@[simp] theorem State.setReg_cores (a : Nat) (v : W64) : (s.setReg a v).cores = s.cores := rfl
@[simp] theorem State.setReg_engines (a : Nat) (v : W64) : (s.setReg a v).engines = s.engines := rfl
@[simp] theorem State.setReg_pools (a : Nat) (v : W64) : (s.setReg a v).pools = s.pools := rfl
@[simp] theorem State.setReg_mem (a : Nat) (v : W64) : (s.setReg a v).mem = s.mem := rfl
@[simp] theorem State.setReg_dramStacks (a : Nat) (v : W64) : (s.setReg a v).dramStacks = s.dramStacks := rfl
@[simp] theorem State.setReg_versions (a : Nat) (v : W64) : (s.setReg a v).versions = s.versions := rfl
@[simp] theorem State.setReg_queues (a : Nat) (v : W64) : (s.setReg a v).queues = s.queues := rfl
@[simp] theorem State.setReg_live (a : Nat) (v : W64) : (s.setReg a v).live = s.live := rfl
@[simp] theorem State.setReg_nextTask (a : Nat) (v : W64) : (s.setReg a v).nextTask = s.nextTask := rfl
@[simp] theorem State.setReg_sheaves (a : Nat) (v : W64) : (s.setReg a v).sheaves = s.sheaves := rfl
@[simp] theorem State.setReg_steps (a : Nat) (v : W64) : (s.setReg a v).steps = s.steps := rfl
@[simp] theorem State.setReg_tb (a : Nat) (v : W64) : (s.setReg a v).tb = s.tb := rfl
@[simp] theorem State.setReg_pel (a : Nat) (v : W64) : (s.setReg a v).pel = s.pel := rfl
@[simp] theorem State.setReg_ctl (a : Nat) (v : W64) : (s.setReg a v).ctl = s.ctl := rfl
@[simp] theorem State.setReg_fault (a : Nat) (v : W64) : (s.setReg a v).fault = s.fault := rfl
@[simp] theorem State.setReg_sec (a : Nat) (v : W64) : (s.setReg a v).sec = s.sec := rfl
@[simp] theorem State.setReg_pins (a : Nat) (v : W64) : (s.setReg a v).pins = s.pins := rfl
@[simp] theorem State.setReg_pwr (a : Nat) (v : W64) : (s.setReg a v).pwr = s.pwr := rfl
@[simp] theorem State.setReg_jtag (a : Nat) (v : W64) : (s.setReg a v).jtag = s.jtag := rfl
@[simp] theorem State.setReg_free (a : Nat) (v : W64) : (s.setReg a v).free = s.free := rfl

/-! ### setLlc -/

@[simp] theorem State.setLlc_pending (l : Nat) (x : LlcLine) : (s.setLlc l x).pending = s.pending := rfl
@[simp] theorem State.setLlc_cores (l : Nat) (x : LlcLine) : (s.setLlc l x).cores = s.cores := rfl
@[simp] theorem State.setLlc_engines (l : Nat) (x : LlcLine) : (s.setLlc l x).engines = s.engines := rfl
@[simp] theorem State.setLlc_pools (l : Nat) (x : LlcLine) : (s.setLlc l x).pools = s.pools := rfl
@[simp] theorem State.setLlc_dramStacks (l : Nat) (x : LlcLine) : (s.setLlc l x).dramStacks = s.dramStacks := rfl
@[simp] theorem State.setLlc_versions (l : Nat) (x : LlcLine) : (s.setLlc l x).versions = s.versions := rfl
@[simp] theorem State.setLlc_queues (l : Nat) (x : LlcLine) : (s.setLlc l x).queues = s.queues := rfl
@[simp] theorem State.setLlc_live (l : Nat) (x : LlcLine) : (s.setLlc l x).live = s.live := rfl
@[simp] theorem State.setLlc_nextTask (l : Nat) (x : LlcLine) : (s.setLlc l x).nextTask = s.nextTask := rfl
@[simp] theorem State.setLlc_sheaves (l : Nat) (x : LlcLine) : (s.setLlc l x).sheaves = s.sheaves := rfl
@[simp] theorem State.setLlc_steps (l : Nat) (x : LlcLine) : (s.setLlc l x).steps = s.steps := rfl
@[simp] theorem State.setLlc_tb (l : Nat) (x : LlcLine) : (s.setLlc l x).tb = s.tb := rfl
@[simp] theorem State.setLlc_pel (l : Nat) (x : LlcLine) : (s.setLlc l x).pel = s.pel := rfl
@[simp] theorem State.setLlc_ctl (l : Nat) (x : LlcLine) : (s.setLlc l x).ctl = s.ctl := rfl
@[simp] theorem State.setLlc_fault (l : Nat) (x : LlcLine) : (s.setLlc l x).fault = s.fault := rfl
@[simp] theorem State.setLlc_sec (l : Nat) (x : LlcLine) : (s.setLlc l x).sec = s.sec := rfl
@[simp] theorem State.setLlc_pins (l : Nat) (x : LlcLine) : (s.setLlc l x).pins = s.pins := rfl
@[simp] theorem State.setLlc_pwr (l : Nat) (x : LlcLine) : (s.setLlc l x).pwr = s.pwr := rfl
@[simp] theorem State.setLlc_jtag (l : Nat) (x : LlcLine) : (s.setLlc l x).jtag = s.jtag := rfl
@[simp] theorem State.setLlc_regs (l : Nat) (x : LlcLine) : (s.setLlc l x).regs = s.regs := rfl
@[simp] theorem State.setLlc_free (l : Nat) (x : LlcLine) : (s.setLlc l x).free = s.free := rfl

/-! ### setByte -/

@[simp] theorem State.setByte_pending (a : Nat) (b : Byte) : (s.setByte a b).pending = s.pending := rfl
@[simp] theorem State.setByte_cores (a : Nat) (b : Byte) : (s.setByte a b).cores = s.cores := rfl
@[simp] theorem State.setByte_engines (a : Nat) (b : Byte) : (s.setByte a b).engines = s.engines := rfl
@[simp] theorem State.setByte_pools (a : Nat) (b : Byte) : (s.setByte a b).pools = s.pools := rfl
@[simp] theorem State.setByte_dramStacks (a : Nat) (b : Byte) : (s.setByte a b).dramStacks = s.dramStacks := rfl
@[simp] theorem State.setByte_versions (a : Nat) (b : Byte) : (s.setByte a b).versions = s.versions := rfl
@[simp] theorem State.setByte_queues (a : Nat) (b : Byte) : (s.setByte a b).queues = s.queues := rfl
@[simp] theorem State.setByte_live (a : Nat) (b : Byte) : (s.setByte a b).live = s.live := rfl
@[simp] theorem State.setByte_nextTask (a : Nat) (b : Byte) : (s.setByte a b).nextTask = s.nextTask := rfl
@[simp] theorem State.setByte_sheaves (a : Nat) (b : Byte) : (s.setByte a b).sheaves = s.sheaves := rfl
@[simp] theorem State.setByte_steps (a : Nat) (b : Byte) : (s.setByte a b).steps = s.steps := rfl
@[simp] theorem State.setByte_tb (a : Nat) (b : Byte) : (s.setByte a b).tb = s.tb := rfl
@[simp] theorem State.setByte_pel (a : Nat) (b : Byte) : (s.setByte a b).pel = s.pel := rfl
@[simp] theorem State.setByte_ctl (a : Nat) (b : Byte) : (s.setByte a b).ctl = s.ctl := rfl
@[simp] theorem State.setByte_fault (a : Nat) (b : Byte) : (s.setByte a b).fault = s.fault := rfl
@[simp] theorem State.setByte_sec (a : Nat) (b : Byte) : (s.setByte a b).sec = s.sec := rfl
@[simp] theorem State.setByte_pins (a : Nat) (b : Byte) : (s.setByte a b).pins = s.pins := rfl
@[simp] theorem State.setByte_pwr (a : Nat) (b : Byte) : (s.setByte a b).pwr = s.pwr := rfl
@[simp] theorem State.setByte_jtag (a : Nat) (b : Byte) : (s.setByte a b).jtag = s.jtag := rfl
@[simp] theorem State.setByte_regs (a : Nat) (b : Byte) : (s.setByte a b).regs = s.regs := rfl
@[simp] theorem State.setByte_free (a : Nat) (b : Byte) : (s.setByte a b).free = s.free := rfl

/-! ### putBytes -/

@[simp] theorem State.putBytes_pending (a : Nat) (bs : List Byte) : (s.putBytes a bs).pending = s.pending := rfl
@[simp] theorem State.putBytes_cores (a : Nat) (bs : List Byte) : (s.putBytes a bs).cores = s.cores := rfl
@[simp] theorem State.putBytes_engines (a : Nat) (bs : List Byte) : (s.putBytes a bs).engines = s.engines := rfl
@[simp] theorem State.putBytes_pools (a : Nat) (bs : List Byte) : (s.putBytes a bs).pools = s.pools := rfl
@[simp] theorem State.putBytes_dramStacks (a : Nat) (bs : List Byte) : (s.putBytes a bs).dramStacks = s.dramStacks := rfl
@[simp] theorem State.putBytes_versions (a : Nat) (bs : List Byte) : (s.putBytes a bs).versions = s.versions := rfl
@[simp] theorem State.putBytes_queues (a : Nat) (bs : List Byte) : (s.putBytes a bs).queues = s.queues := rfl
@[simp] theorem State.putBytes_live (a : Nat) (bs : List Byte) : (s.putBytes a bs).live = s.live := rfl
@[simp] theorem State.putBytes_nextTask (a : Nat) (bs : List Byte) : (s.putBytes a bs).nextTask = s.nextTask := rfl
@[simp] theorem State.putBytes_sheaves (a : Nat) (bs : List Byte) : (s.putBytes a bs).sheaves = s.sheaves := rfl
@[simp] theorem State.putBytes_steps (a : Nat) (bs : List Byte) : (s.putBytes a bs).steps = s.steps := rfl
@[simp] theorem State.putBytes_tb (a : Nat) (bs : List Byte) : (s.putBytes a bs).tb = s.tb := rfl
@[simp] theorem State.putBytes_pel (a : Nat) (bs : List Byte) : (s.putBytes a bs).pel = s.pel := rfl
@[simp] theorem State.putBytes_ctl (a : Nat) (bs : List Byte) : (s.putBytes a bs).ctl = s.ctl := rfl
@[simp] theorem State.putBytes_fault (a : Nat) (bs : List Byte) : (s.putBytes a bs).fault = s.fault := rfl
@[simp] theorem State.putBytes_sec (a : Nat) (bs : List Byte) : (s.putBytes a bs).sec = s.sec := rfl
@[simp] theorem State.putBytes_pins (a : Nat) (bs : List Byte) : (s.putBytes a bs).pins = s.pins := rfl
@[simp] theorem State.putBytes_pwr (a : Nat) (bs : List Byte) : (s.putBytes a bs).pwr = s.pwr := rfl
@[simp] theorem State.putBytes_jtag (a : Nat) (bs : List Byte) : (s.putBytes a bs).jtag = s.jtag := rfl
@[simp] theorem State.putBytes_regs (a : Nat) (bs : List Byte) : (s.putBytes a bs).regs = s.regs := rfl
@[simp] theorem State.putBytes_free (a : Nat) (bs : List Byte) : (s.putBytes a bs).free = s.free := rfl

/-! ### poison -/

@[simp] theorem State.poison_pending (sec : Nat) : (s.poison sec).pending = s.pending := rfl
@[simp] theorem State.poison_cores (sec : Nat) : (s.poison sec).cores = s.cores := rfl
@[simp] theorem State.poison_engines (sec : Nat) : (s.poison sec).engines = s.engines := rfl
@[simp] theorem State.poison_pools (sec : Nat) : (s.poison sec).pools = s.pools := rfl
@[simp] theorem State.poison_dramStacks (sec : Nat) : (s.poison sec).dramStacks = s.dramStacks := rfl
@[simp] theorem State.poison_versions (sec : Nat) : (s.poison sec).versions = s.versions := rfl
@[simp] theorem State.poison_queues (sec : Nat) : (s.poison sec).queues = s.queues := rfl
@[simp] theorem State.poison_live (sec : Nat) : (s.poison sec).live = s.live := rfl
@[simp] theorem State.poison_nextTask (sec : Nat) : (s.poison sec).nextTask = s.nextTask := rfl
@[simp] theorem State.poison_sheaves (sec : Nat) : (s.poison sec).sheaves = s.sheaves := rfl
@[simp] theorem State.poison_steps (sec : Nat) : (s.poison sec).steps = s.steps := rfl
@[simp] theorem State.poison_tb (sec : Nat) : (s.poison sec).tb = s.tb := rfl
@[simp] theorem State.poison_pel (sec : Nat) : (s.poison sec).pel = s.pel := rfl
@[simp] theorem State.poison_ctl (sec : Nat) : (s.poison sec).ctl = s.ctl := rfl
@[simp] theorem State.poison_fault (sec : Nat) : (s.poison sec).fault = s.fault := rfl
@[simp] theorem State.poison_sec (sec : Nat) : (s.poison sec).sec = s.sec := rfl
@[simp] theorem State.poison_pins (sec : Nat) : (s.poison sec).pins = s.pins := rfl
@[simp] theorem State.poison_pwr (sec : Nat) : (s.poison sec).pwr = s.pwr := rfl
@[simp] theorem State.poison_jtag (sec : Nat) : (s.poison sec).jtag = s.jtag := rfl
@[simp] theorem State.poison_regs (sec : Nat) : (s.poison sec).regs = s.regs := rfl
@[simp] theorem State.poison_free (sec : Nat) : (s.poison sec).free = s.free := rfl

/-! ### draw -/

@[simp] theorem State.draw_pending : (s.draw).pending = s.pending := rfl
@[simp] theorem State.draw_cores : (s.draw).cores = s.cores := rfl
@[simp] theorem State.draw_engines : (s.draw).engines = s.engines := rfl
@[simp] theorem State.draw_pools : (s.draw).pools = s.pools := rfl
@[simp] theorem State.draw_mem : (s.draw).mem = s.mem := rfl
@[simp] theorem State.draw_dramStacks : (s.draw).dramStacks = s.dramStacks := rfl
@[simp] theorem State.draw_versions : (s.draw).versions = s.versions := rfl
@[simp] theorem State.draw_queues : (s.draw).queues = s.queues := rfl
@[simp] theorem State.draw_live : (s.draw).live = s.live := rfl
@[simp] theorem State.draw_nextTask : (s.draw).nextTask = s.nextTask := rfl
@[simp] theorem State.draw_sheaves : (s.draw).sheaves = s.sheaves := rfl
@[simp] theorem State.draw_steps : (s.draw).steps = s.steps := rfl
@[simp] theorem State.draw_tb : (s.draw).tb = s.tb := rfl
@[simp] theorem State.draw_pel : (s.draw).pel = s.pel := rfl
@[simp] theorem State.draw_ctl : (s.draw).ctl = s.ctl := rfl
@[simp] theorem State.draw_fault : (s.draw).fault = s.fault := rfl
@[simp] theorem State.draw_sec : (s.draw).sec = s.sec := rfl
@[simp] theorem State.draw_pins : (s.draw).pins = s.pins := rfl
@[simp] theorem State.draw_pwr : (s.draw).pwr = s.pwr := rfl
@[simp] theorem State.draw_jtag : (s.draw).jtag = s.jtag := rfl
@[simp] theorem State.draw_regs : (s.draw).regs = s.regs := rfl

/-! ### Reading a unit after an update of its own kind -/

@[simp] theorem State.core_setCore_self (n : Nat) (c : Core) : (s.setCore n c).core n = c := by
  simp [State.core, State.setCore]

@[simp] theorem State.core_setCore_other (n m : Nat) (c : Core) (h : m ≠ n) : (s.setCore n c).core m = s.core m := by
  simp [State.core, State.setCore, h]

@[simp] theorem State.core_updCore_self (n : Nat) (f : Core → Core) : (s.updCore n f).core n = f (s.core n) := by
  simp [State.updCore]

@[simp] theorem State.core_updCore_other (n m : Nat) (f : Core → Core) (h : m ≠ n) : (s.updCore n f).core m = s.core m := by
  simp [State.updCore, h]

@[simp] theorem State.eng_setEng_self (n : Nat) (e : Engine) : (s.setEng n e).eng n = e := by
  simp [State.eng, State.setEng]

@[simp] theorem State.eng_setEng_other (n m : Nat) (e : Engine) (h : m ≠ n) : (s.setEng n e).eng m = s.eng m := by
  simp [State.eng, State.setEng, h]

@[simp] theorem State.pool_setPool_self (n : Nat) (p : Pool) : (s.setPool n p).pool n = p := by
  simp [State.pool, State.setPool]

@[simp] theorem State.pool_setPool_other (n m : Nat) (p : Pool) (h : m ≠ n) : (s.setPool n p).pool m = s.pool m := by
  simp [State.pool, State.setPool, h]

@[simp] theorem State.stack_setStack_self (n : Nat) (p : Stack) : (s.setStack n p).stack n = p := by
  simp [State.stack, State.setStack]

@[simp] theorem State.stack_setStack_other (n m : Nat) (p : Stack) (h : m ≠ n) : (s.setStack n p).stack m = s.stack m := by
  simp [State.stack, State.setStack, h]

@[simp] theorem State.ver_setVer_self (n : Nat) (v : Version) : (s.setVer n v).ver n = v := by
  simp [State.ver, State.setVer]

@[simp] theorem State.ver_setVer_other (n m : Nat) (v : Version) (h : m ≠ n) : (s.setVer n v).ver m = s.ver m := by
  simp [State.ver, State.setVer, h]

@[simp] theorem State.queue_setQueue_self (n : Nat) (q : List QTask) : (s.setQueue n q).queue n = q := by
  simp [State.queue, State.setQueue]

@[simp] theorem State.queue_setQueue_other (n m : Nat) (q : List QTask) (h : m ≠ n) :
    (s.setQueue n q).queue m = s.queue m := by
  simp [State.queue, State.setQueue, h]

@[simp] theorem State.sheaf_setSheaf_self (n : Nat) (v : W32) : (s.setSheaf n v).sheaf n = v := by
  simp [State.sheaf, State.setSheaf]

@[simp] theorem State.sheaf_setSheaf_other (n m : Nat) (v : W32) (h : m ≠ n) : (s.setSheaf n v).sheaf m = s.sheaf m := by
  simp [State.sheaf, State.setSheaf, h]

@[simp] theorem State.stepSlot_setStepSlot_self (n : Nat) (v : StepSlot) : (s.setStepSlot n v).stepSlot n = v := by
  simp [State.stepSlot, State.setStepSlot]

@[simp] theorem State.stepSlot_setStepSlot_other (n m : Nat) (v : StepSlot) (h : m ≠ n) :
    (s.setStepSlot n v).stepSlot m = s.stepSlot m := by
  simp [State.stepSlot, State.setStepSlot, h]

@[simp] theorem State.mb_setMb_self (n : Nat) (m : Mailbox) : (s.setMb n m).mb n = m := by
  simp [State.mb, State.setMb]

@[simp] theorem State.mb_setMb_other (n k : Nat) (m : Mailbox) (h : k ≠ n) : (s.setMb n m).mb k = s.mb k := by
  simp [State.mb, State.setMb, h]

@[simp] theorem State.port_setPort_self (n : Nat) (p : Port) : (s.setPort n p).port n = p := by
  simp [State.port, State.setPort]

@[simp] theorem State.port_setPort_other (n m : Nat) (p : Port) (h : m ≠ n) : (s.setPort n p).port m = s.port m := by
  simp [State.port, State.setPort, h]

@[simp] theorem State.reg_setReg_self (a : Nat) (v : W64) : (s.setReg a v).reg a = v := by
  simp [State.reg, State.setReg]

@[simp] theorem State.llcLine_setLlc_self (l : Nat) (x : LlcLine) : (s.setLlc l x).llcLine l = x := by
  simp [State.llcLine, State.setLlc]

@[simp] theorem State.llcLine_setLlc_other (l k : Nat) (x : LlcLine) (h : k ≠ l) :
    (s.setLlc l x).llcLine k = s.llcLine k := by
  simp [State.llcLine, State.setLlc, h]

/-! ### Stored words: every register has its own reset value -/

/-- A write leaves every other register. -/
@[simp] theorem State.reg_setReg_other (a b : Nat) (v : W64) (h : b ≠ a) : (s.setReg a v).reg b = s.reg b := by
  unfold State.reg State.setReg Tab.set
  split
  · exact Tab.get_erase_other _ _ _ _ h
  · exact Tab.get_put_other _ _ _ _ _ h

/-! ### Folds -/

/-- What every turn of a fold keeps, the fold keeps. -/
theorem foldl_keeps {α β γ : Type} (g : α → γ) (f : α → β → α) (l : List β) (a : α) (h : ∀ a b, g (f a b) = g a) :
    g (l.foldl f a) = g a := by
  induction l generalizing a with
  | nil => rfl
  | cons b t ih => rw [List.foldl_cons, ih, h]

/-- An invariant that every turn of a fold keeps holds after it. -/
theorem foldl_invariant {α β : Type} (p : α → Prop) (f : α → β → α) (l : List β) (a : α) (h0 : p a)
    (h : ∀ a b, p a → p (f a b)) : p (l.foldl f a) := by
  induction l generalizing a with
  | nil => exact h0
  | cons b t ih => exact ih (f a b) (h a b h0)

end Sys2Proof.Machine
end

