-- ==== Sys2Proof/Laws/Firmware.lean ====
section
/-! SUPPORT. Laws of what firmware does: a report, the end of a mailbox command, the performance of one, and a record of
a list. Each says once what the shared operation can do. -/

namespace Sys2Proof.Machine

/-! ### Messages and reports (R378, R397, R398) -/

/-- A message changes the list of messages and the pending bits only. -/
theorem State.msix_eq (s : State) (v : Nat) :
    s.msix v = { s with ctl := { s.ctl with msix := (s.msixNext v).1, msixPend := (s.msixNext v).2 } } := rfl

/-- A post of a report touches the messages and nothing else of the control die. -/
theorem State.signal_eq (s : State) (v : Nat) :
    ∃ msix pend at1 owed1 at3 owed3, s.signal v = { s with ctl := { s.ctl with
      msix := msix, msixPend := pend, msixAt1 := at1, msixOwed1 := owed1, msixAt3 := at3, msixOwed3 := owed3 } } := by
  unfold State.signal
  split
  · split
    · exact ⟨_, _, _, _, _, _, rfl⟩
    · rw [State.msix_eq]
      exact ⟨_, _, _, _, _, _, rfl⟩
  · split
    · exact ⟨_, _, _, _, _, _, rfl⟩
    · rw [State.msix_eq]
      exact ⟨_, _, _, _, _, _, rfl⟩

theorem W64.fld_lt (w : W64) (hi lo : Nat) : W64.fld w hi lo < 2 ^ (hi + 1 - lo) := by
  unfold W64.fld
  exact Nat.mod_lt _ (Nat.two_pow_pos _)

/-- A stalled control processor posts no report (R372). -/
theorem State.report_stalled (s : State) (kind unit : Nat) (id : W32) (a b : W64) (h : s.ctl.stalled = true) :
    s.report kind unit id a b = s := by
  simp [State.report, h]

/-- The ring with one more report. -/
def State.withReport (s : State) (r : Report) : State :=
  let w := s.regF (wMBX + 0x08) 31 0
  let c : Control := { s.ctl with reports := Tab.set none s.ctl.reports (w % 2048) (some r) }
  ({ s with ctl := c } : State).setReg (wMBX + 0x08) (W64.setFld (s.reg (wMBX + 0x08)) 31 0 ((w + 1) % 2 ^ 32))

/-- With room in the ring, a report is posted and signalled. -/
theorem State.report_room (s : State) (kind unit : Nat) (id : W32) (a b : W64) (h : s.ctl.stalled = false)
    (room : (s.regF (wMBX + 0x08) 31 0 + 2 ^ 32 - s.regF (wMBX + 0x10) 31 0) % 2 ^ 32 ≠ 2048) :
    s.report kind unit id a b = (s.withReport ⟨kind, unit, id, s.tb.epoch, a, b⟩).signal (reportVector kind) := by
  unfold State.report
  rw [if_neg (by simp [h])]
  exact if_neg room

/-- It stands at its place of the ring. -/
theorem State.report_posted (s : State) (kind unit : Nat) (id : W32) (a b : W64) (h : s.ctl.stalled = false)
    (room : (s.regF (wMBX + 0x08) 31 0 + 2 ^ 32 - s.regF (wMBX + 0x10) 31 0) % 2 ^ 32 ≠ 2048) :
    Tab.get none (s.report kind unit id a b).ctl.reports (s.regF (wMBX + 0x08) 31 0 % 2048) =
      some ⟨kind, unit, id, s.tb.epoch, a, b⟩ := by
  rw [State.report_room s kind unit id a b h room]
  obtain ⟨_, _, _, _, _, _, e⟩ := State.signal_eq (s.withReport ⟨kind, unit, id, s.tb.epoch, a, b⟩) (reportVector kind)
  rw [e]
  exact Tab.get_set_self none s.ctl.reports _ (some ⟨kind, unit, id, s.tb.epoch, a, b⟩)

/-- Whatever becomes of a report, it touches the ring, the messages and stored words. -/
theorem State.report_frame (s : State) (kind unit : Nat) (id : W32) (a b : W64) :
    ∃ reports msix pend at1 owed1 at3 owed3 regs, s.report kind unit id a b = { s with
      regs := regs
      ctl := { s.ctl with reports := reports, msix := msix, msixPend := pend, msixAt1 := at1, msixOwed1 := owed1, msixAt3 := at3,
                          msixOwed3 := owed3 } } := by
  unfold State.report
  split
  · exact ⟨_, _, _, _, _, _, _, _, rfl⟩
  · dsimp only
    split
    · exact ⟨_, _, _, _, _, _, _, _, rfl⟩
    · obtain ⟨_, _, _, _, _, _, e⟩ := State.signal_eq _ (reportVector kind)
      rw [e]
      exact ⟨_, _, _, _, _, _, _, _, rfl⟩

/-! ### The end of a command (R383, R401) -/

/-- The bytes of RESULT: those given, and zeros beyond. -/
theorem get_resultTab (res : List Byte) (i : Nat) :
    Tab.get 0 ((res.zip (List.range res.length)).foldl (fun (t : Tab Byte) p => Tab.set 0 t p.2 p.1) []) i =
      res.getD i 0 := by
  have key : ∀ (l : List Byte) (o : Nat) (t : Tab Byte),
      Tab.get 0 ((l.zip (List.range' o l.length)).foldl (fun (t : Tab Byte) p => Tab.set 0 t p.2 p.1) t) i =
        if o ≤ i ∧ i < o + l.length then l.getD (i - o) 0 else Tab.get 0 t i := by
    intro l
    induction l with
    | nil => intro o t; simp <;> omega
    | cons b r ih =>
      intro o t
      rw [List.length_cons, List.range'_succ, List.zip_cons_cons, List.foldl_cons, ih]
      by_cases h1 : o + 1 ≤ i ∧ i < o + 1 + r.length
      · have e : i - o = (i - (o + 1)) + 1 := by omega
        rw [if_pos h1, if_pos (by omega), e, List.getD_cons_succ]
      · rw [if_neg h1, Tab.get_set]
        by_cases h2 : i = o
        · subst h2
          simp
        · rw [if_neg h2, if_neg (by omega)]
  have := key res 0 []
  rw [List.range_eq_range']
  rw [this]
  by_cases h : i < res.length
  · simp [h]
  · simp [List.getD_eq_getElem?_getD, h]

theorem State.journalDone_frame (s : State) (seq : Nat) (st : Byte) (res : List Byte) :
    ∃ j, s.journalDone seq st res = { s with ctl := { s.ctl with journal := j } } := by
  unfold State.journalDone
  split
  · split
    · exact ⟨_, rfl⟩
    · exact ⟨_, rfl⟩
  · exact ⟨_, rfl⟩

/-- A command's end changes its mailbox, its journal entry and the messages. -/
theorem State.completeCmd_frame (s : State) (mb : Nat) (st : Byte) (res : List Byte) :
    ∃ j m q, s.completeCmd mb st res =
      ({ s with ctl := { s.ctl with journal := j, msix := m, msixPend := q } } : State).setMb mb
      { s.mb mb with
        state := .done, status := st, rsplen := res.length,
        result := (res.zip (List.range res.length)).foldl (fun (t : Tab Byte) p => Tab.set 0 t p.2 p.1) [],
        taken := none, ready := none, begun := false } := by
  have frame : ∀ t : State, (∃ j, t = { s with ctl := { s.ctl with journal := j } }) →
      ∃ j m q, (if (s.mb mb).irq then (t.setMb mb { s.mb mb with
          state := .done, status := st, rsplen := res.length,
          result := (res.zip (List.range res.length)).foldl (fun (t : Tab Byte) p => Tab.set 0 t p.2 p.1) [],
          taken := none, ready := none, begun := false }).msix 0
        else t.setMb mb { s.mb mb with
          state := .done, status := st, rsplen := res.length,
          result := (res.zip (List.range res.length)).foldl (fun (t : Tab Byte) p => Tab.set 0 t p.2 p.1) [],
          taken := none, ready := none, begun := false }) =
        ({ s with ctl := { s.ctl with journal := j, msix := m, msixPend := q } } : State).setMb mb { s.mb mb with
          state := .done, status := st, rsplen := res.length,
          result := (res.zip (List.range res.length)).foldl (fun (t : Tab Byte) p => Tab.set 0 t p.2 p.1) [],
          taken := none, ready := none, begun := false } := by
    rintro t ⟨j, rfl⟩
    split
    · rw [State.msix_eq]
      generalize State.msixNext _ 0 = x
      exact ⟨j, x.1, x.2, rfl⟩
    · exact ⟨j, s.ctl.msix, s.ctl.msixPend, rfl⟩
  unfold State.completeCmd
  refine frame _ ?_
  dsimp only
  split
  · split
    · exact ⟨s.ctl.journal, rfl⟩
    · exact State.journalDone_frame s _ st res
  · exact ⟨s.ctl.journal, rfl⟩

/-- The mailbox is DONE with the status and the result. -/
theorem State.mb_completeCmd_self (s : State) (mb : Nat) (st : Byte) (res : List Byte) :
    (s.completeCmd mb st res).mb mb = { s.mb mb with
      state := .done, status := st, rsplen := res.length,
      result := (res.zip (List.range res.length)).foldl (fun (t : Tab Byte) p => Tab.set 0 t p.2 p.1) [],
      taken := none, ready := none, begun := false } := by
  obtain ⟨j, m, q, h⟩ := s.completeCmd_frame mb st res
  rw [h, State.mb_setMb_self]

/-- The others stay. -/
theorem State.mb_completeCmd_other (s : State) (mb k : Nat) (st : Byte) (res : List Byte) (hk : k ≠ mb) :
    (s.completeCmd mb st res).mb k = s.mb k := by
  obtain ⟨j, m, q, h⟩ := s.completeCmd_frame mb st res
  rw [h, State.mb_setMb_other _ _ _ _ hk]
  rfl

/-! ### The performance of a command (R383, R386) -/

/-- An accepted command not yet begun, with its own row: its effect where the checks pass, else the status that fails. -/
theorem State.perform'_waits (s : State) (mb code : Nat) (c : Cmd) (f : Cmd → State → State) (h1 : s.serving = true)
    (h2 : (s.mb mb).state = .accepted) (h3 : (s.mb mb).taken = some c) (h4 : c.code = code)
    (h5 : (s.mb mb).begun = false) :
    s.perform' mb code f = if s.checkCmd mb c = stOk then f c s else s.completeCmd mb (s.checkCmd mb c) [] := by
  unfold State.perform'
  have e : (!true || MbState.accepted != MbState.accepted || code != code || false) = false := by simp
  simp only [h3, h1, h2, h4, h5, e, Bool.false_eq_true, if_false]

/-- With another row, or begun already, nothing happens. -/
theorem State.perform'_other (s : State) (mb code : Nat) (c : Cmd) (f : Cmd → State → State)
    (h : (s.mb mb).taken = some c) (h' : c.code ≠ code ∨ (s.mb mb).begun = true) : s.perform' mb code f = s := by
  unfold State.perform'
  simp only [h]
  rcases h' with h' | h' <;> simp [h']

/-! ### A record (R389, R392) -/

/-- A record that has been read is not read again. -/
theorem State.readRecord_seen (s : State) (j : ListJob) (rest : List ListJob) (h1 : s.ctl.lists = j :: rest)
    (h2 : j.seen = true) : s.readRecord = s := by
  unfold State.readRecord
  rw [h1]
  simp [h2]

/-- Nor is one that lies outside visible memory. -/
theorem State.readRecord_outside (s : State) (j : ListJob) (rest : List ListJob) (h1 : s.ctl.lists = j :: rest)
    (h2 : visible (j.addr + 64 * j.next) 64 = false) : s.readRecord = s := by
  unfold State.readRecord
  rw [h1]
  simp [h2]

/-- The record at the front of the lists, with its own row. -/
theorem State.onRecord_at (s : State) (kind : Nat) (f : ListJob → List Byte → State → RecRes) (j : ListJob)
    (rest : List ListJob) (h1 : s.ctl.lists = j :: rest) (h2 : s.atRecord j = true) (hs : j.seen = true)
    (h3 : visible (j.addr + 64 * j.next) 64 = true) (h4 : s.spanPoisoned (j.addr + 64 * j.next) 64 = false)
    (h5 : recordBad (s.bytesAt (j.addr + 64 * j.next) 64) = false)
    (h6 : rnum (s.bytesAt (j.addr + 64 * j.next) 64) 0 1 = kind) :
    s.onRecord kind f = match f j (s.bytesAt (j.addr + 64 * j.next) 64) s with
      | .done t => t.nextRecord j
      | .fail t k => t.failRecord j k
      | .wait t => t := by
  unfold State.onRecord
  rw [h1]
  simp only [State.readRecord_seen s j rest h1 hs, h2, h3, h4, h5, h6, Bool.not_true, Bool.or_self, Bool.false_eq_true, if_false, ne_eq, not_true] <;>
    (cases f j (s.bytesAt (j.addr + 64 * j.next) 64) s <;> rfl)

/-- A record that cannot be read fails with reason 7, whatever it is. -/
theorem State.onRecord_unreadable (s : State) (kind : Nat) (f : ListJob → List Byte → State → RecRes) (j : ListJob)
    (rest : List ListJob) (h1 : s.ctl.lists = j :: rest) (h2 : s.atRecord j = true)
    (h3 : visible (j.addr + 64 * j.next) 64 = false ∨ j.seen = true ∧ s.spanPoisoned (j.addr + 64 * j.next) 64 = true) :
    s.onRecord kind f = s.failRecord j 0x07 := by
  unfold State.onRecord
  rw [h1]
  simp only [h2]
  rcases h3 with h | h
  · simp [State.readRecord_outside s j rest h1 h, h]
  · simp [State.readRecord_seen s j rest h1 h.1, h.2]

end Sys2Proof.Machine
end

