-- ==== Sys2Proof/Laws/Issue.lean ====
section
/-! SUPPORT. Laws of issue: an instruction of a core that can begin it runs its body, and how the core stands after it
(R81, R107, R110). -/

namespace Sys2Proof.Machine

theorem State.draw_core (s : State) (n : Nat) : s.draw.core n = s.core n := rfl

theorem isGlobal_of_visible (a k : Nat) (h : a + k ≤ Config.memTop) : isGlobal a = false := by
  unfold isGlobal
  apply Nat.testBit_lt_two_pow
  have : Config.memTop < 2 ^ 63 := by decide
  omega

/-- The fetch of a good word of visible memory without translation finds nothing and changes nothing. -/
theorem State.fetchWord_plain (s : State) (n : Nat) (pc : W64)
    (hu : (s.core n).pl = 3 ∨ ((s.core n).cr nPTB).toNat.testBit 0 = false)
    (hm : pc.toNat + 1 ≤ Config.memTop) (hp : s.poisoned (pc.toNat / 32) = false) :
    s.fetchWord n pc = (s, none) := by
  have hg : isGlobal pc.toNat = false := isGlobal_of_visible _ _ hm
  have hv : visible pc.toNat 1 = true := by simpa [visible] using hm
  have ht : s.translate n .fetch (s.core n).pl pc.toNat = (s, .ok pc.toNat 0 false) := by
    unfold State.translate
    rcases hu with h | h <;> simp [h]
  simp [State.fetchWord, ht, State.locate, hg, hv, hp]

theorem Issues.ready {s : State} {n len : Nat} (h : Issues s n len) : s.ready n = true := by
  simp [State.ready, h.core, h.runs, h.noAsync]

/-- The fetch of an instruction that can begin. -/
theorem Issues.fetch {s : State} {n len : Nat} (h : Issues s n len) (hl : len = 4 ∨ len = 8) :
    s.fetchInsn n len = (s, none) := by
  have hm := h.inMemory
  have hf : s.fetchWord n (s.core n).arch.pc = (s, none) :=
    s.fetchWord_plain n _ h.untranslated (by omega) h.first
  rcases hl with rfl | rfl
  · simp [State.fetchInsn, hf]
  · have e : ((s.core n).arch.pc + 4).toNat = (s.core n).arch.pc.toNat + 4 := by
      have : Config.memTop < 2 ^ 63 := by decide
      rw [BitVec.toNat_add]
      show (_ + 4) % 2 ^ 64 = _
      omega
    have hl := h.last
    have hs : s.fetchWord n ((s.core n).arch.pc + 4) = (s, none) := by
      refine s.fetchWord_plain n _ h.untranslated (by omega) ?_
      rw [e]
      simpa using hl
    simp only [State.fetchInsn, hf, if_true]
    exact hs

theorem Issues.draw {s : State} {n len : Nat} (h : Issues s n len) : Issues s.draw n len :=
  ⟨h.core, h.runs, h.noAsync, h.noTops, h.parity, h.untranslated, h.aligned, h.inMemory, h.first, h.last⟩

/-- How an instruction ends whose body ends so. -/
def finishInsn (s : State) (n len : Nat) (u : Uses) (r : Res) : State :=
  match r with
  | .ok s1 => s1.updCore n fun c =>
      ({ c with arch := { c.arch with pc := c.arch.pc + BitVec.ofNat 64 len } } : Core).complete (s.core n).nextTop u.writes
  | .goto s1 pc => s1.updCore n fun c =>
      ({ c with arch := { c.arch with pc := pc &&& ~~~3 } } : Core).complete (s.core n).nextTop u.writes
  | .trap s1 k t => s.draw.trapInsn s1 n k t
  | .wait s1 w => s1.updCore n fun c => { c with wait := w }

/-- An instruction that can begin runs its body on the state, with one free value drawn. -/
theorem runInsn_issues {s : State} {n len : Nat} (h : Issues s n len) (hl : len = 4 ∨ len = 8) (u : Uses)
    (body : State → Res) : runInsn ⟨n, []⟩ len u s body = finishInsn s n len u (body s.draw) := by
  have hp : (s.draw.core n).parity = [] := h.parity
  have hf := h.draw.fetch hl
  have hb : (u.reads.find? fun k => (s.draw.core n).parity.contains k) = none := by
    rw [hp]
    simp
  unfold runInsn
  simp only [h.ready, h.noTops, Bool.not_true, Bool.false_eq_true, if_false]
  unfold runInsn.go
  simp only [List.foldl_nil, hf, hb]
  unfold finishInsn
  cases body s.draw <;> rfl

/-- The same for a form: a field that must be 0 and is not is illegal (R86). -/
theorem runForm_issues {s : State} {n : Nat} (F : Form) (h : Issues s n F.len) (hl : F.len = 4 ∨ F.len = 8)
    (reads writes : List Nat) (body : State → Res) :
    runForm ⟨n, []⟩ F reads writes s body =
      finishInsn s n F.len ⟨reads, writes⟩ (if F.bad then illegal F s.draw else body s.draw) :=
  runInsn_issues h hl _ _

/-! ### The core after an instruction -/

/-- Counting an instruction changes no register but the counter 0x521 (R503). -/
theorem Core.countInst_eq (c : Core) : ∃ v : W64, c.countInst = c ∨ c.countInst = c.setCr 0x521 v := by
  unfold Core.countInst
  split
  · exact ⟨_, .inr rfl⟩
  · exact ⟨0, .inl rfl⟩

theorem RegsKept.refl (a : Arch) (p : RegSet) : RegsKept a a p :=
  ⟨fun _ _ => rfl, fun _ _ => rfl, fun _ _ => rfl, fun _ _ => rfl, fun _ _ _ => rfl, fun _ _ => rfl, fun _ _ => rfl⟩

theorem Arch.cr_setCr_other (a : Arch) (n k : Nat) (v : W64) (h : k ≠ n) : (a.setCr n v).cr k = a.cr k := by
  unfold Arch.cr Arch.setCr Tab.set
  split
  · exact Tab.get_erase_other _ _ _ _ h
  · exact Tab.get_put_other _ _ _ _ _ h

@[simp] theorem Arch.cr_setCr_self (a : Arch) (n : Nat) (v : W64) : (a.setCr n v).cr n = v := by
  simp [Arch.cr, Arch.setCr]

/-- An instruction that changes registers of its core only, and not the pc, retires. -/
theorem retires_of_arch {s : State} {n len : Nat} (h : Issues s n len) (u : Uses) (g : Arch → Arch)
    (hg : ∀ a, (g a).pc = a.pc) :
    Retires s (finishInsn s n len u (.ok (s.draw.updCore n fun c => { c with arch := g c.arch }))) n (s.pcAfter n len) := by
  have hp : (s.core n).parity = [] := h.parity
  have ht : (s.core n).tops = [] := h.noTops
  have e : finishInsn s n len u (.ok (s.draw.updCore n fun c => { c with arch := g c.arch })) =
      (s.draw.updCore n fun c => { c with arch := g c.arch }).updCore n fun c =>
        ({ c with arch := { c.arch with pc := c.arch.pc + BitVec.ofNat 64 len } } : Core).complete (s.core n).nextTop u.writes :=
    rfl
  rw [e]
  have c0 : (((s.draw.updCore n fun c => { c with arch := g c.arch }).updCore n fun c =>
        ({ c with arch := { c.arch with pc := c.arch.pc + BitVec.ofNat 64 len } } : Core).complete (s.core n).nextTop
          u.writes).core n) =
      ({ s.core n with
        arch := { g (s.core n).arch with pc := (s.core n).arch.pc + BitVec.ofNat 64 len }, wait := .none, remote := [] } :
        Core).countInst := by
    simp only [State.core_updCore_self, State.draw_core, Core.complete, hp, ht, hg]
    rfl
  refine ⟨⟨rfl, ?_⟩, ?_, ?_⟩
  · intro m hm
    simp [hm, State.draw_core]
  · rw [c0]
    obtain ⟨v, hv | hv⟩ := Core.countInst_eq _ <;> rw [hv] <;> rfl
  · rw [c0]
    obtain ⟨v, hv | hv⟩ := Core.countInst_eq _ <;> rw [hv] <;> rfl

end Sys2Proof.Machine
end

