-- ==== Sys2Proof/Laws/Mem.lean ====
section
/-! SUPPORT. Laws of memory: what a byte reads as after each operation that writes bytes, that each of them keeps the
canonical form, and that the caches' own moves change no byte. -/

namespace Sys2Proof.Machine

/-! ### Reading after writing -/

theorem State.byte_setByte (s : State) (a k : Nat) (b : Byte) :
    (s.setByte a b).byte k = if k = a then b else s.byte k :=
  Tab.get_set 0 s.mem.bytes a k b

theorem Mem.get_putBytes (m : Mem) (a : Nat) (bs : List Byte) (k : Nat) :
    Tab.get 0 (m.putBytes a bs).bytes k =
      if a ≤ k ∧ k < a + bs.length then bs.getD (k - a) 0 else Tab.get 0 m.bytes k := by
  induction bs generalizing m a with
  | nil => simp [Mem.putBytes] <;> omega
  | cons b t ih =>
    rw [Mem.putBytes, ih]
    by_cases h1 : a + 1 ≤ k ∧ k < a + 1 + t.length
    · have e : k - a = (k - (a + 1)) + 1 := by omega
      rw [if_pos h1, if_pos (by simp only [List.length_cons]; omega), e, List.getD_cons_succ]
    · rw [if_neg h1, Tab.get_set]
      by_cases h2 : k = a
      · subst h2
        simp
      · rw [if_neg h2, if_neg (by simp only [List.length_cons]; omega)]

/-- The bytes written read back; every other byte reads as before. -/
theorem State.byte_putBytes (s : State) (a : Nat) (bs : List Byte) (k : Nat) :
    (s.putBytes a bs).byte k = if a ≤ k ∧ k < a + bs.length then bs.getD (k - a) 0 else s.byte k :=
  Mem.get_putBytes s.mem a bs k

theorem Mem.get_putMasked (m : Mem) (a : Nat) (mask : W32) (d : Sector) (k : Nat) :
    Tab.get 0 (m.putMasked a mask d).bytes k =
      if a ≤ k ∧ k < a + 32 ∧ mask.toNat.testBit (k - a) = true then byteAt d (k - a) else Tab.get 0 m.bytes k := by
  have key : ∀ n, Tab.get 0 ((List.range n).foldl (fun (m : Mem) i =>
      if mask.toNat.testBit i then { m with bytes := Tab.set 0 m.bytes (a + i) (byteAt d i) } else m) m).bytes k =
      if a ≤ k ∧ k < a + n ∧ mask.toNat.testBit (k - a) = true then byteAt d (k - a) else Tab.get 0 m.bytes k := by
    intro n
    induction n with
    | zero => simp <;> omega
    | succ n ih =>
      rw [List.range_succ, List.foldl_append, List.foldl_cons, List.foldl_nil]
      by_cases hb : mask.toNat.testBit n = true
      · rw [if_pos hb]
        show Tab.get 0 (Tab.set 0 _ (a + n) (byteAt d n)) k = _
        rw [Tab.get_set, ih]
        by_cases hk : k = a + n
        · subst hk
          simp [hb]
        · rw [if_neg hk]
          by_cases hr : a ≤ k ∧ k < a + n ∧ mask.toNat.testBit (k - a) = true
          · rw [if_pos hr, if_pos ⟨hr.1, by omega, hr.2.2⟩]
          · rw [if_neg hr, if_neg (fun h => hr ⟨h.1, by omega, h.2.2⟩)]
      · rw [if_neg hb, ih]
        by_cases hk : k = a + n
        · subst hk
          simp [hb]
        · by_cases hr : a ≤ k ∧ k < a + n ∧ mask.toNat.testBit (k - a) = true
          · rw [if_pos hr, if_pos ⟨hr.1, by omega, hr.2.2⟩]
          · rw [if_neg hr, if_neg (fun h => hr ⟨h.1, by omega, h.2.2⟩)]
  exact key 32

/-- Which bytes a masked write leaves depends on the bytes alone. -/
theorem Mem.putMasked_congr {m m' : Mem} (a : Nat) (mask : W32) (d : Sector) (h : m.bytes = m'.bytes) :
    (m.putMasked a mask d).bytes = (m'.putMasked a mask d).bytes := by
  unfold Mem.putMasked
  generalize List.range 32 = l
  induction l generalizing m m' with
  | nil => exact h
  | cons i t ih =>
    simp only [List.foldl_cons]
    apply ih
    split
    · exact congrArg (fun b => Tab.set 0 b (a + i) (byteAt d i)) h
    · exact h

theorem get_eraseRange {α : Type} (d : α) (m : Tab α) (a n k : Nat) :
    Tab.get d ((List.range n).foldl (fun m i => Tab.erase m (a + i)) m) k =
      if a ≤ k ∧ k < a + n then d else Tab.get d m k := by
  induction n with
  | zero => simp <;> omega
  | succ n ih =>
    rw [List.range_succ, List.foldl_append, List.foldl_cons, List.foldl_nil]
    by_cases hk : k = a + n
    · subst hk
      rw [Tab.get_erase_self, if_pos (by omega)]
    · rw [Tab.get_erase_other _ _ _ _ hk, ih]
      by_cases hr : a ≤ k ∧ k < a + n
      · rw [if_pos hr, if_pos (by omega)]
      · rw [if_neg hr, if_neg (by omega)]

/-- A zero-marked line reads as zeros; every other byte reads as before (R300). -/
theorem State.byte_zeroMark (s : State) (l k : Nat) :
    (s.zeroMark l).byte k = if k / 128 = l then 0 else s.byte k := by
  simp only [State.byte, State.zeroMark]
  rw [get_eraseRange]
  by_cases h : k / 128 = l
  · rw [if_pos h, if_pos (by omega)]
  · rw [if_neg h, if_neg (by omega)]

/-! ### Canonical form -/

theorem Mem.wf_putBytes (m : Mem) (a : Nat) (bs : List Byte) (h : m.wf = true) : (m.putBytes a bs).wf = true := by
  induction bs generalizing m a with
  | nil => exact h
  | cons b t ih => exact ih _ _ (Tab.wf_set 0 m.bytes a b h)

theorem State.wf_setByte (s : State) (a : Nat) (b : Byte) (h : s.mem.wf = true) : (s.setByte a b).mem.wf = true :=
  Tab.wf_set 0 s.mem.bytes a b h

theorem State.wf_putBytes (s : State) (a : Nat) (bs : List Byte) (h : s.mem.wf = true) :
    (s.putBytes a bs).mem.wf = true :=
  Mem.wf_putBytes s.mem a bs h

theorem Mem.wf_putMasked (m : Mem) (a : Nat) (mask : W32) (d : Sector) (h : m.wf = true) :
    (m.putMasked a mask d).wf = true := by
  refine foldl_invariant (fun m : Mem => m.wf = true) _ _ _ h ?_
  intro m i hm
  split
  · exact Tab.wf_set 0 m.bytes _ _ hm
  · exact hm

theorem State.wf_zeroMark (s : State) (l : Nat) (h : s.mem.wf = true) : (s.zeroMark l).mem.wf = true := by
  simp only [Mem.wf, State.zeroMark]
  exact foldl_invariant (fun m : Tab Byte => Tab.wf 0 m = true) _ _ _ h fun m i hm => Tab.wf_erase 0 m _ hm

/-- So does a filter of the bytes, as a change of affinity makes (R298). -/
theorem Mem.wf_filter (m : Mem) (p : Nat × Byte → Bool) (h : m.wf = true) :
    ({ m with bytes := m.bytes.filter p } : Mem).wf = true :=
  Tab.wf_filter 0 m.bytes p h

theorem Mem.wf_reset : Mem.reset.wf = true := rfl

/-! ### Moves of the caches change no byte -/

theorem State.bump_mem (s : State) (a hi lo k : Nat) : (s.bump a hi lo k).mem = s.mem := rfl

theorem State.countDev_mem (s : State) (code unit k : Nat) : (s.countDev code unit k).mem = s.mem := by
  unfold State.countDev
  split
  · rfl
  · refine foldl_keeps State.mem _ _ _ ?_
    intro s n
    dsimp only
    split <;> rfl

theorem State.demoted_mem (s : State) (l : Nat) : (s.demoted l).mem = s.mem := by
  rw [State.demoted, State.countDev_mem, State.bump_mem]

theorem State.setLlc_bytes (s : State) (l : Nat) (x : LlcLine) : (s.setLlc l x).mem.bytes = s.mem.bytes := rfl

theorem State.evictLine_bytes (s : State) (l : Nat) : (s.evictLine l).mem.bytes = s.mem.bytes := by
  unfold State.evictLine
  dsimp only
  split
  · rfl
  · rw [State.countDev_mem]

theorem State.makeWayBut_bytes (s : State) (l : Nat) (no : Option Nat) :
    (s.makeWayBut l no).1.mem.bytes = s.mem.bytes := by
  unfold State.makeWayBut
  dsimp only
  split
  · rfl
  · refine foldl_keeps (fun s : State => s.mem.bytes) _ _ _ ?_
    intro s p
    split
    · exact State.evictLine_bytes s p.1
    · split <;> rfl

theorem State.slotFor_bytes (s : State) (l : Nat) (pin : Bool) : (s.slotFor l pin).1.mem.bytes = s.mem.bytes := by
  unfold State.slotFor
  split
  · rfl
  · exact State.makeWayBut_bytes s l none

theorem State.slotAge_bytes (s : State) (l : Nat) : (s.slotAge l).mem.bytes = s.mem.bytes := by
  unfold State.slotAge
  exact foldl_keeps (fun s : State => s.mem.bytes) _ _ _ fun _ _ => rfl

theorem State.regroup_bytes (s : State) (l : Nat) : (s.regroup l).mem.bytes = s.mem.bytes := by
  unfold State.regroup
  dsimp only
  repeat' split
  · rfl
  · rfl
  · rw [State.setLlc_bytes, State.makeWayBut_bytes]

theorem State.pinLine_bytes (s : State) (l : Nat) : (s.pinLine l).mem.bytes = s.mem.bytes := by
  unfold State.pinLine
  split
  · rfl
  · rw [State.regroup_bytes, State.setLlc_bytes]

/-- A fill of the home slice changes no byte (R260). -/
theorem State.llcFill_bytes (s : State) (l : Nat) (mask dirty : BitVec 4) (hint : Nat) (req : Bool) :
    (s.llcFill l mask dirty hint req).mem.bytes = s.mem.bytes := by
  unfold State.llcFill
  dsimp only
  repeat' split
  all_goals simp only [State.setLlc_bytes, State.slotFor_bytes, State.slotAge_bytes, State.pinLine_bytes, State.demoted_mem]

/-! ### Reports and history entries change no memory -/

theorem State.signal_mem (s : State) (v : Nat) : (s.signal v).mem = s.mem := by
  unfold State.signal
  repeat' split
  all_goals rfl

theorem State.report_mem (s : State) (kind unit : Nat) (id : W32) (a b : W64) : (s.report kind unit id a b).mem = s.mem := by
  unfold State.report
  dsimp only
  repeat' split
  · rfl
  · rfl
  · rw [State.signal_mem]
    rfl

theorem State.reportEntry_mem (s : State) (e : HistEntry) : (s.reportEntry e).mem = s.mem := by
  unfold State.reportEntry
  split <;> exact State.report_mem _ _ _ _ _ _

theorem State.event_mem (s : State) (e : MgmtEvent) : (s.event e).mem = s.mem := rfl

theorem State.unrecorded_mem (s : State) (e : HistEntry) : (s.unrecorded e).mem = s.mem := by
  unfold State.unrecorded
  dsimp only
  split
  · rfl
  · rw [State.event_mem, State.reportEntry_mem]

theorem State.history_mem (s : State) (kind source unit : Nat) (a : W64) (b : W32) :
    (s.history kind source unit a b).mem = s.mem := by
  unfold State.history
  dsimp only
  split
  · split
    · rw [State.unrecorded_mem]
    · rw [State.event_mem, State.reportEntry_mem]
  · exact State.unrecorded_mem _ _

theorem State.syncHealth_mem (s : State) : (s.syncHealth).mem = s.mem := by
  unfold State.syncHealth
  split <;> rfl

/-! ### Reads of the stacks change no byte (R307 to R309) -/

theorem State.dropL1s_mem (s : State) (l : Nat) : (s.dropL1s l).mem = s.mem := by
  unfold State.dropL1s
  refine foldl_keeps State.mem _ _ _ ?_
  intro s p
  split <;> rfl

theorem State.dropLine_bytes (s : State) (l : Nat) : (s.dropLine l).mem.bytes = s.mem.bytes := by
  unfold State.dropLine
  rw [State.dropL1s_mem]

theorem State.retireFrame_bytes (s : State) (source f : Nat) (r : Row) :
    (s.retireFrame source f r).mem.bytes = s.mem.bytes := by
  unfold State.retireFrame
  dsimp only
  repeat' split
  · rfl
  · rw [State.history_mem]
    rfl
  · rw [State.syncHealth_mem, State.history_mem]
    have e := foldl_keeps (fun s : State => s.mem.bytes) (fun (s : State) i => s.dropLine (32 * f + i)) (List.range 32) s
      fun s i => State.dropLine_bytes s _
    generalize (List.range 32).foldl (fun (s : State) i => s.dropLine (32 * f + i)) s = u at e ⊢
    exact e

theorem State.rowFailed_bytes (s : State) (addr : Nat) (r : Row) : (s.rowFailed addr r).mem.bytes = s.mem.bytes := by
  unfold State.rowFailed
  dsimp only
  repeat' split
  · rfl
  · rfl
  · exact State.retireFrame_bytes _ _ _ _

theorem State.delivered_bytes (s : State) (sec : Nat) (bad : Bool) : (s.delivered sec bad).mem.bytes = s.mem.bytes := by
  unfold State.delivered
  repeat' split
  all_goals rfl

theorem State.noteCorrected_bytes (s : State) (sec : Nat) (r : Row) : (s.noteCorrected sec r).mem.bytes = s.mem.bytes := by
  unfold State.noteCorrected
  dsimp only
  split
  · rw [State.rowFailed_bytes]
  · rfl

theorem State.readOnce_bytes {s t : State} {sec : Nat} {r : Row} {f : StackFind} (h : s.readOnce sec r f = some t) :
    t.mem.bytes = s.mem.bytes := by
  unfold State.readOnce at h
  obtain ⟨bad, -, rfl⟩ := Option.map_eq_some_iff.mp h
  split
  · rw [State.noteCorrected_bytes, State.delivered_bytes]
  · exact State.delivered_bytes _ _ _

theorem State.readFailed_bytes (s : State) (sec : Nat) (r : Row) : (s.readFailed sec r).mem.bytes = s.mem.bytes := by
  unfold State.readFailed
  dsimp only
  rw [State.rowFailed_bytes]
  split
  · rfl
  · rw [State.poisonMade, State.history_mem]
    rfl

theorem State.readSector_bytes (s : State) (sec : Nat) : (s.readSector sec).mem.bytes = s.mem.bytes := by
  unfold State.readSector
  dsimp only
  split
  · rw [State.countDev_mem]
  · split
    · next h => rw [State.readOnce_bytes h, State.countDev_mem]
    · split
      · next h => rw [State.readOnce_bytes h, State.countDev_mem, State.countDev_mem, State.countDev_mem]
      · rw [State.readFailed_bytes, State.countDev_mem, State.countDev_mem, State.countDev_mem]

theorem State.useMeta_mem (s : State) (r : Row) : (s.useMeta r).mem = s.mem := by
  unfold State.useMeta
  dsimp only
  split
  · rfl
  · rw [State.countDev_mem, State.countDev_mem, State.setStack_mem]

theorem State.stackRead_bytes (s : State) (l : Nat) (mask : BitVec 4) : (s.stackRead l mask).mem.bytes = s.mem.bytes := by
  unfold State.stackRead
  dsimp only
  repeat' split
  · rfl
  · rw [State.countDev_mem, State.bump_mem, State.useMeta_mem]
  · rw [foldl_keeps (fun s : State => s.mem.bytes) _ _ _ fun s i => State.readSector_bytes s _, State.useMeta_mem]

/-! ### Misses change no byte (R270 to R272) -/

theorem State.updCore_mem (s : State) (n : Nat) (f : Core → Core) : (s.updCore n f).mem = s.mem := rfl

theorem State.sliceMiss_bytes (s : State) (l : Nat) (mask : BitVec 4) : (s.sliceMiss l mask).mem.bytes = s.mem.bytes := by
  unfold State.sliceMiss
  dsimp only
  repeat' split
  · rw [State.countDev_mem]
  · exact State.stackRead_bytes _ _ _
  · rw [State.stackRead_bytes, State.countDev_mem]

theorem State.l1MissFor_bytes {s t : State} {n l : Nat} {mask : BitVec 4} {hint : Nat} {only : Bool} {pf : List Nat}
    (h : s.l1MissFor n l mask hint only pf = some t) : t.mem.bytes = s.mem.bytes := by
  unfold State.l1MissFor at h
  dsimp only at h
  repeat' split at h
  all_goals cases h
  · rw [State.stackRead_bytes]
    rfl
  · rw [State.sliceMiss_bytes]
    rfl

theorem State.askPrefetch_bytes (s : State) (n : Nat) (w : PfWait) : (s.askPrefetch n w).mem.bytes = s.mem.bytes := by
  unfold State.askPrefetch
  dsimp only
  split
  · rfl
  · split
    · next h => rw [State.countCore, State.updCore_mem, State.l1MissFor_bytes h]
    · rfl

theorem State.startWaiting_bytes (s : State) (n : Nat) : (s.startWaiting n).mem.bytes = s.mem.bytes := by
  unfold State.startWaiting
  rw [foldl_keeps (fun s : State => s.mem.bytes) _ _ _ fun s w => State.askPrefetch_bytes s n w, State.updCore_mem]

theorem State.freeMiss_bytes (s : State) (n l : Nat) : (s.freeMiss n l).mem.bytes = s.mem.bytes := by
  unfold State.freeMiss
  rw [State.startWaiting_bytes, State.updCore_mem]

theorem State.l1Fill_mem (s : State) (n l : Nat) (mask poison : BitVec 4) (held cold : Bool) :
    (s.l1Fill n l mask poison held cold).mem = s.mem := by
  unfold State.l1Fill
  dsimp only
  split <;> rfl

theorem State.crossDie_mem (s : State) (n l k : Nat) : (s.crossDie n l k).mem = s.mem := by
  unfold State.crossDie
  split
  · rfl
  · exact State.countDev_mem _ _ _ _

theorem State.fillMiss_bytes (s : State) (n : Nat) (m : L1Miss) : (s.fillMiss n m).mem.bytes = s.mem.bytes := by
  unfold State.fillMiss
  rw [State.freeMiss_bytes]
  split
  · exact State.llcFill_bytes _ _ _ _ _ _
  · rw [State.l1Fill_mem, State.crossDie_mem, State.llcFill_bytes]

theorem State.sliceRoom_bytes (s : State) (l : Nat) : (s.sliceRoom l).mem.bytes = s.mem.bytes := by
  unfold State.sliceRoom
  repeat' split
  all_goals first
    | rfl
    | exact State.fillMiss_bytes _ _ _

/-- A read through the home slice changes no byte. -/
theorem State.readFill_bytes (s : State) (l : Nat) (mask : BitVec 4) (hint : Nat) (req : Bool) :
    (s.readFill l mask hint req).mem.bytes = s.mem.bytes := by
  unfold State.readFill
  dsimp only
  rw [State.llcFill_bytes, State.stackRead_bytes, State.countDev_mem]
  split
  · exact State.sliceRoom_bytes _ _
  · rfl

/-- So is a store's, before its bytes enter. -/
theorem State.storeFill_bytes (s : State) (sec : Nat) (whole : Bool) (hint : Nat) :
    (s.storeFill sec whole hint).mem.bytes = s.mem.bytes := by
  unfold State.storeFill
  dsimp only
  split
  · rw [State.llcFill_bytes, State.countDev_mem]
  · rw [State.setLlc_bytes]
    split <;> exact State.readFill_bytes _ _ _ _ _

theorem State.unpair_bytes (s : State) (l : Nat) : (s.unpair l).mem.bytes = s.mem.bytes := by
  unfold State.unpair
  dsimp only
  split
  · rfl
  · rw [State.setLlc_bytes, State.makeWayBut_bytes]

theorem State.snoop_mem (s : State) (n : Option Nat) (sec : Nat) : (s.snoop n sec).mem = s.mem := by
  unfold State.snoop
  refine foldl_keeps State.mem _ _ _ ?_
  intro s p
  split <;> rfl

theorem State.poison_bytes (s : State) (sec : Nat) : (s.poison sec).mem.bytes = s.mem.bytes := rfl

theorem State.unpoison_bytes (s : State) (sec : Nat) : (s.unpoison sec).mem.bytes = s.mem.bytes := rfl

theorem State.commitSector_bytes (s : State) (n : Option Nat) (sec : Nat) (mask : W32) (d : Sector) (poison clears : Bool)
    (hint : Nat) (h : s.frameRetired (sec / 128) = false) :
    (s.commitSector n sec mask d poison clears hint).1.mem.bytes = (s.mem.putMasked (sec * 32) mask d).bytes := by
  have key : ∀ (t : State) (w : Bool), t.mem.bytes = s.mem.bytes →
      ((t.storeFill sec w hint).mem.putMasked (sec * 32) mask d).bytes = (s.mem.putMasked (sec * 32) mask d).bytes :=
    fun t w e => Mem.putMasked_congr _ _ _ ((State.storeFill_bytes t sec w hint).trans e)
  unfold State.commitSector
  rw [h]
  dsimp only
  cases n with
  | none =>
    repeat' split
    all_goals first
      | contradiction
      | (simp only [State.snoop_mem, State.unpair_bytes, State.poison_bytes, State.unpoison_bytes]
         exact key s _ rfl)
  | some n =>
    repeat' split
    all_goals first
      | contradiction
      | (simp only [State.updCore_mem, State.snoop_mem, State.unpair_bytes, State.poison_bytes, State.unpoison_bytes]
         exact key _ _ (congrArg Mem.bytes (State.crossDie_mem s _ _ 1)))

/-- What a store to a sector leaves of memory: its bytes, in a frame that is not retired (R257, R309, R411). -/
theorem State.byte_commitSector (s : State) (n : Option Nat) (sec : Nat) (mask : W32) (d : Sector) (poison clears : Bool)
    (hint k : Nat) :
    (s.commitSector n sec mask d poison clears hint).1.byte k =
      if s.frameRetired (sec / 128) = false ∧ k / 32 = sec ∧ mask.toNat.testBit (k % 32) = true then byteAt d (k % 32)
      else s.byte k := by
  by_cases hr : s.frameRetired (sec / 128) = true
  · simp [State.commitSector, hr]
  · have hr' : s.frameRetired (sec / 128) = false := by simpa using hr
    unfold State.byte
    rw [State.commitSector_bytes _ _ _ _ _ _ _ _ hr', Mem.get_putMasked]
    by_cases hk : k / 32 = sec
    · have e : k - sec * 32 = k % 32 := by omega
      rw [e]
      by_cases hb : mask.toNat.testBit (k % 32) = true
      · rw [if_pos ⟨by omega, by omega, hb⟩, if_pos ⟨hr', hk, hb⟩]
      · rw [if_neg (fun h => hb h.2.2), if_neg (fun h => hb h.2.2)]
    · rw [if_neg (by omega), if_neg (fun h => hk h.2.1)]

/-- And it keeps the canonical form. -/
theorem State.wf_commitSector (s : State) (n : Option Nat) (sec : Nat) (mask : W32) (d : Sector) (poison clears : Bool)
    (hint : Nat) (h : s.mem.wf = true) : (s.commitSector n sec mask d poison clears hint).1.mem.wf = true := by
  by_cases hr : s.frameRetired (sec / 128) = true
  · simpa [State.commitSector, hr] using h
  · unfold Mem.wf
    rw [State.commitSector_bytes _ _ _ _ _ _ _ _ (by simpa using hr)]
    exact Mem.wf_putMasked _ _ _ _ h

end Sys2Proof.Machine
end

