-- ==== Sys2Proof/Machine/Lands.lean ====
section
/-! DEFINITION. The land map of the package (R466 to R471): which signal each of the 9,216 lands carries. -/

namespace Sys2Proof.Machine

/-- A supply (R467, R469 to R471); the die that a compute rail feeds is 0 or 1. -/
inductive Rail where
  | cmp (die : Nat) | sram (die : Nat) | stk (die : Nat) | stkq (die : Nat) | vpp (die : Nat)
  | ser | serA | ctl | pll | io
deriving DecidableEq, Repr

/-- What a land carries: of a pair, transmit or receive and the positive or negative side. -/
inductive LandSignal where
  | vss
  | rail (r : Rail)
  | pcie (lane : Nat) (tx pos : Bool)
  | pel (port lane : Nat) (tx pos : Bool)
  | line (name : String)
  | reserved
deriving DecidableEq, Repr

/-- The depth of a land. -/
def landDepth (r c : Nat) : Nat := min (min r c) (min (95 - r) (95 - c))

/-- R467. -/
def coreLand (r c : Nat) : LandSignal :=
  let h := if c ≤ 47 then 0 else 1
  if (r + c) % 2 = 0 then .vss
  else if r % 8 ≤ 4 then .rail (.cmp h)
  else if r % 8 = 5 then .rail (.sram h)
  else if r % 8 = 6 then .rail (.stk h)
  else if c % 4 = 0 then .rail (.stkq h)
  else .rail (.vpp h)

/-- Side and position of an edge land (R468). -/
def edgePlace (r c : Nat) : Nat × Nat :=
  if r ≤ 7 then (0, c - 8) else if 88 ≤ c then (1, r - 8) else if 88 ≤ r then (2, 87 - c) else (3, 87 - r)

/-- R469, of block `b` at depth `d` and place `q`. -/
def laneLand (b d q : Nat) : LandSignal :=
  let pair := fun (tx : Bool) (n : Nat) (pos : Bool) =>
    (if b < 2 then .pcie (8 * b + n) tx pos else .pel (b - 2) n tx pos : LandSignal)
  if q % 4 = 0 ∨ q % 4 = 3 then if d = 6 ∧ q % 2 = 0 then .rail .ser else .vss
  else if d % 2 = 0 then if d = 6 ∧ q % 4 = 2 then .rail .ser else .vss
  else pair (decide (d ≤ 3)) ((if d = 1 ∨ d = 5 then 0 else 4) + q / 4) (q % 4 == 1)

/-- R470. -/
def powerLand (b d : Nat) : LandSignal :=
  if d % 2 = 0 then .vss
  else if b = 18 then if d ≤ 3 then .rail .serA else .rail .ctl
  else if d ≤ 3 then .rail .ctl
  else if d = 5 then .rail .pll
  else .rail .serA

/-- R468 to R470. -/
def edgeLand (r c : Nat) : LandSignal :=
  let e := edgePlace r c
  let b := 5 * e.1 + e.2 / 16
  if b < 18 then laneLand b (landDepth r c) (e.2 % 16) else powerLand b (landDepth r c)

/-- The signals of a corner in the order of R471; lands past the list are reserved. -/
def cornerNames (k : Nat) : List String :=
  if k = 0 then
    ["PCIE_REFCLK_P", "PCIE_REFCLK_N", "PERST#", "PWRGOOD", "READY_N", "FAULT_N", "ALERT_N", "THERMTRIP_N", "SENSE_CTL_P",
     "SENSE_CTL_N", "RECOVERY_N"]
  else if k = 1 then
    ["SYSCLK_P", "SYSCLK_N", "TIMEREF_P", "TIMEREF_N", "EPOCH_IN", "EPOCH_OUT", "SENSE_CMP1_P", "SENSE_CMP1_N"]
  else if k = 2 then
    ["XSPI_CLK", "XSPI_CS_N", "XSPI_DQS", "XSPI_RESET_N", "XSPI_DQ0", "XSPI_DQ1", "XSPI_DQ2", "XSPI_DQ3", "XSPI_DQ4",
     "XSPI_DQ5", "XSPI_DQ6", "XSPI_DQ7"]
  else
    ["I3C_SCL", "I3C_SDA", "I3C_SA0", "I3C_SA1", "TCK", "TMS", "TDI", "TDO", "TRST_N", "SENSE_CMP0_P", "SENSE_CMP0_N"]

/-- R471. -/
def cornerLand (r c : Nat) : LandSignal :=
  let k := if r ≤ 7 then (if c ≤ 7 then 0 else 1) else if c ≤ 7 then 3 else 2
  let i := min r (95 - r)
  let j := min c (95 - c)
  if i % 2 = 1 ∧ j % 2 = 1 then
    match (cornerNames k)[2 * (i - 1) + (j - 1) / 2]? with
    | some n => .line n
    | none => .reserved
  else if i % 2 = 0 ∧ j % 2 = 0 ∧ 2 ≤ i ∧ 2 ≤ j then .rail .io
  else .vss

/-- The signal of land (r, c) (R466). -/
def landSignal (r c : Nat) : LandSignal :=
  if 8 ≤ landDepth r c then coreLand r c
  else if (r ≤ 7 ∨ 88 ≤ r) ∧ (c ≤ 7 ∨ 88 ≤ c) then cornerLand r c
  else edgeLand r c

/-- How many lands carry a signal of some kind (R472). -/
def landCount (p : LandSignal → Bool) : Nat :=
  (List.range 96).foldl (fun n r => (List.range 96).foldl (fun n c => if p (landSignal r c) then n + 1 else n) n) 0

end Sys2Proof.Machine
end

