-- ==== Sys2Proof/Tests/Slice0.lean ====
section
/-! SUPPORT. The model's own tests: ill-formed terms that the checks refuse, words written out from the spec's encodings,
small steps, and for each statement states and operands that meet its hypotheses. -/

open Sys2Proof Sys2Proof.Machine

namespace Sys2Proof.Tests

/-- Instructions of core 0 that no error strikes. -/
def x0 : Ctx := ⟨0, []⟩

/-! ### Well-formedness -/

theorem test_wf_refuses_core : (Instr.trapEnv ⟨96, []⟩).wf = false := by decide
theorem test_wf_refuses_upset : (Instr.trapEnv ⟨0, [.dot 3 0 0]⟩).wf = false := by decide
theorem test_wf_refuses_engine : (Instr.engineRunEnd 768 0 .none).wf = false ∧ (Instr.engineRunEnd 0 2 .none).wf = false := by decide
theorem test_wf_refuses_sector : (Instr.stackRead (Config.memTop / 32) (.groups 0) (.groups 0)).wf = false := by decide
theorem test_wf_refuses_bank : (Instr.refreshDue 0 0 96).wf = false ∧ (Instr.refreshDue 0 32 0).wf = false := by decide
theorem test_wf_refuses_port : (Instr.flit 16 ⟨0, 0, false, 0⟩ true).wf = false ∧ (Instr.linkGiveUp 16).wf = false := by decide
theorem test_wf_refuses_mailbox : (Instr.attach 32).wf = false := by decide
theorem test_wf_refuses_alignment : (Instr.registerWrite (.bar 4) 8 0).wf = false ∧ (Instr.registerWrite (.bar 0) 2 0).wf = false := by decide
theorem test_wf_refuses_row : (Instr.vld x0 ⟨0, 0, 0, 0, 0x10⟩).wf = false := by decide
/-- addi is no illegal instruction (R86, R87). -/
theorem test_wf_refuses_legal_words : (Instr.illegalInstruction x0 0x04000000 0).wf = false := by decide
theorem test_wf_accepts : (Instr.vld x0 ⟨0, 0, 0, 0, 0x00⟩).wf = true ∧ (Instr.illegalInstruction x0 0x84200000 0).wf = true := by decide

/-! ### Words written out from the encodings -/

/-- ld g5, 16(g9): major 0x08, d 5, a 9 (R84, R87). -/
theorem test_decode_ld (x : Ctx) : decodeInsn x 0x20A90010 0 = .scalarLoad x .ld (.short ⟨5, 9, 16⟩) := by rfl
/-- addi.l g7, g0: long op 0x01 (R85, R514). -/
theorem test_decode_addi_long (x : Ctx) : decodeInsn x 0xE0270000 0x12345678 = .addi x (.long ⟨7, 0, 0, 0, 0, 0x12345678⟩) := by rfl
/-- vmul.bf16 v8, v16, v24 under k1: major 0x28, func 0x42 (R84, R138). -/
theorem test_decode_vmul (x : Ctx) : decodeInsn x 0xA110C142 0 = .floatingPointElementWise x (.short ⟨8, 16, 24, 1, 0x42⟩) := by rfl
/-- An immediate form of major 0x2C (R144). -/
theorem test_decode_vector_immediate (x : Ctx) : decodeInsn x 0xB1053800 0 = .floatingPointImmediate x ⟨8, 0x05, 0x3800⟩ := by rfl
/-- A long element-wise form with a Sorrel row (R145). -/
theorem test_decode_vector_long (x : Ctx) : decodeInsn x 0xEA288014 0x28 = .floatingPointElementWise x (.long 0x51 ⟨8, 16, 0, 2, 4, 0x28⟩) := by rfl
/-- tmv (R199, R200). -/
theorem test_decode_tmv (x : Ctx) : decodeInsn x 0xFAA84C00 0x00180C00 = .tmv x 5 ⟨8, 9, 16, 0, 0, 0x00180C00⟩ := by rfl
/-- tload t3, (g9), g10: major 0x30, func 0x00 (R174). -/
theorem test_decode_tload (x : Ctx) : decodeInsn x 0xC0695000 0 = .tload x (.short ⟨3, 9, 10, 0, 0x00⟩) := by rfl
/-- tstore t4, (g13), g10: func 0x02 (R174). -/
theorem test_decode_tstore (x : Ctx) : decodeInsn x 0xC08D5002 0 = .tstore x (.short ⟨4, 13, 10, 0, 0x02⟩) := by rfl
/-- tcfg g20: func 0x06 (R174). -/
theorem test_decode_tcfg (x : Ctx) : decodeInsn x 0xC0140006 0 = .tcfg x ⟨0, 20, 0, 0, 0x06⟩ := by rfl
/-- tload.l: long op 0xC0 (R175). -/
theorem test_decode_tload_long (x : Ctx) : decodeInsn x 0xF8034A80 0x100 = .tload x (.long 0xC0 ⟨3, 9, 10, 0, 0, 0x100⟩) := by rfl
/-- tmma t8, t0, t1: major 0x31, func 0x50 (R185). -/
theorem test_decode_tmma (x : Ctx) : decodeInsn x 0xC5000850 0 = .tmma x ⟨8, 0, 1, 0, 0x50⟩ := by rfl
/-- tmma.x (R186). -/
theorem test_decode_tmmax (x : Ctx) : decodeInsn x 0xF9080040 0x050D0C55 = .tmmaX x ⟨8, 0, 1, 0, 0, 0x050D0C55⟩ := by rfl
/-- cache.dead (g9), cache.isync and tlb.inv (g12): major 0x32 (R278). -/
theorem test_decode_cache (x : Ctx) :
    decodeInsn x 0xC8090000 0 = .cacheDead x ⟨0, 9, 0, 0, 0⟩ ∧ decodeInsn x 0xC8000003 0 = .cacheIsync x ⟨0, 0, 0, 0, 3⟩ ∧
    decodeInsn x 0xC80C0004 0 = .tlbInv x ⟨0, 12, 0, 0, 4⟩ := ⟨rfl, rfl, rfl⟩
/-- trap.env: major 0x21, func 0 (R90); a d field that is not 0 decodes to nothing (R86). -/
theorem test_decode_system (x : Ctx) :
    decodeInsn x 0x84000000 0 = .trapEnv x ∧ decodeInsn x 0x84200000 0 = .illegalInstruction x 0x84200000 0 := ⟨rfl, rfl⟩
/-- beq g1, g2, +4 words: major 0x18, layout B (R84, R87). -/
theorem test_decode_beq (x : Ctx) : decodeInsn x 0x60220004 0 = .branch x .beq (.short ⟨1, 2, 4⟩) := by rfl

/-! ### Core 0 at level M, running at address 0 -/

/-- The state after reset with core 0 running, its registers as given. -/
def at0 (f : Core → Core) : State := State.reset.setCore 0 (f { Core.reset with mode := .running })

/-- With values in g registers. -/
def withG (l : List (Nat × W64)) : State :=
  at0 fun c => { c with arch := l.foldl (fun a p => a.setG p.1 p.2) c.arch }

/-- The state after a command; the state itself where it does not complete. -/
def after (i : Instr) (s : State) : State := match exec i s with
  | .next t => t
  | .fault _ => s
  | .refused _ => s

/-- g1 holds 7 and g2 holds −2. -/
def demo : State := withG [(1, 7), (2, 0xFFFFFFFFFFFFFFFE)]

theorem issues_demo (len : Nat) (h : len = 4 ∨ len = 8) : Issues demo 0 len := by
  rcases h with rfl | rfl <;> constructor <;> decide

theorem quiet_demo (fl : Flags) : NoTrap demo 0 fl := ⟨.inl (by decide), by
  have h : (demo.core 0).traps = 0 := by decide
  rw [h]; simp⟩

/-- With a machine handler behind each of some causes: descriptors at 0x1000, each with handler 0x2000, stack pointer
0x7F0000004000, limit 0x7F0000000000, VALID and TARGET M (R96, R97, R102). -/
def withHandler (s : State) (cause : Nat) : State :=
  (s.setCore 0 ((s.core 0).setCr 0x022 0x1000)).putBytes (0x1000 + 32 * cause)
    (bytesOf 8 0x2000 ++ bytesOf 8 0x7F0000004000 ++ bytesOf 8 0x7F0000000000 ++ bytesOf 8 7)

/-- That descriptor. -/
def mHandler : Desc := ⟨0x2000, 0x7F0000004000, 0x7F0000000000, false, false, 3, true⟩

theorem entersAtM_of (s : State) (cause : Nat) (h : s.findDesc 0 cause = some mHandler) (p : (s.core 0).spec = false) :
    EntersAtM s 0 cause mHandler := ⟨h, by decide, by decide, by decide, by decide, by decide, p⟩

/-! ### Small steps -/

/-- addi g3, g1, −2 leaves 5 in g3 and moves the pc by 4 (R87). -/
theorem test_addi :
    let t := after (.addi x0 (.short ⟨3, 1, 0xFFFE⟩)) demo
    (t.core 0).arch.rg 3 = 5 ∧ (t.core 0).arch.pc = 4 := by decide

/-- blt g2, g1, +3 words is taken, for −2 is below 7; bltu is not (R87). -/
theorem test_branches :
    ((after (.branch x0 .blt (.short ⟨2, 1, 3⟩)) demo).core 0).arch.pc = 12 ∧
    ((after (.branch x0 .bltu (.short ⟨2, 1, 3⟩)) demo).core 0).arch.pc = 4 := by decide

/-- div of −2 by zero gives the most negative number (R88). -/
theorem test_div_by_zero : ((after (.integerOps x0 ⟨3, 2, 0, 0, 0x0D⟩) demo).core 0).arch.rg 3 = 0x8000000000000000 := by decide

/-- Writes to g0 are discarded (R80). -/
theorem test_g0 : ((after (.addi x0 (.short ⟨0, 1, 1⟩)) demo).core 0).arch.rg 0 = 0 := by decide

/-- trap.env enters the handler of cause 0x0E at level M with one more level of nesting (R90, R98). -/
theorem test_trap_env :
    let t := after (.trapEnv x0) (withHandler demo 0x0E)
    (t.core 0).arch.pc = 0x2000 ∧ (t.core 0).cr nCAUSE = 0x0E ∧ (t.core 0).nest = 1 ∧
    (t.core 0).arch.rg 31 = 0x7F0000003FC0 := by decide +kernel


/-! ### Hypotheses that are met: scalar instructions -/

theorem witness_EmptyQueueTicks : State.reset.pending = [] := rfl

theorem witness_DecodeOfEncode :
    encodeInsn (.tmmaX x0 ⟨31, 31, 31, 7, 7, 0xFFFFFFFF⟩) = some (encL 0xC8 ⟨31, 31, 31, 7, 7, 0xFFFFFFFF⟩, 0xFFFFFFFF) ∧
    (Instr.tmmaX x0 ⟨31, 31, 31, 7, 7, 0xFFFFFFFF⟩).inRow = true := by decide

theorem witness_IntegerOpsWriteResult :
    Issues demo 0 4 ∧ (⟨0, 1, 0, 0, 0x13⟩ : RF).b = 0 ∧ intOp 0x13 7 0 = some 3 ∧
    intOp 0x0D 0xFFFFFFFFFFFFFFFE 0 = some 0x8000000000000000 := ⟨issues_demo 4 (.inl rfl), by decide⟩

theorem witness_DivisionNeverTraps :
    (0xFFFFFFFFFFFFFFFF : W64) ≠ 0 ∧ ¬ ((7 : W64).toInt = -(2 ^ 63) ∧ (0xFFFFFFFFFFFFFFFF : W64).toInt = -1) := by decide

/-- d is g0, imm the most negative. -/
theorem witness_ImmediatesWriteResult :
    (∀ n ∈ [0x01, 0x02, 0x03, 0x04, 0x05],
      (formIL n (.short ⟨0, 1, 0x8000⟩)).bad = false ∧ (formIL n (.long ⟨0, 1, 0, 0, 0, 0x80000000⟩)).bad = false) ∧
    (⟨31, 0, 0x8000⟩ : IF).a = 0 ∧ (⟨31, 1, 0, 0, 0, 0xFFFFFFFF⟩ : LF).b = 0 ∧ Issues demo 0 4 ∧ Issues demo 0 8 :=
  ⟨by decide, rfl, rfl, issues_demo 4 (.inl rfl), issues_demo 8 (.inr rfl)⟩

theorem witness_BranchesMovePc :
    (∀ op ∈ [BrOp.beq, .bne, .blt, .bge, .bltu, .bgeu],
      (formBL (branchNumber op) (.short ⟨2, 1, 0x8000⟩)).bad = false ∧
      (formBL (branchNumber op) (.long ⟨0, 2, 1, 0, 0, 0x80000000⟩)).bad = false) ∧ Issues demo 0 4 ∧ Issues demo 0 8 :=
  ⟨by decide, issues_demo 4 (.inl rfl), issues_demo 8 (.inr rfl)⟩

theorem witness_JumpsLink :
    (formJL 0x1E (.short 0x2000000)).bad = false ∧ (formJL 0x1E (.long ⟨0, 0, 0, 0, 0, 0x80000000⟩)).bad = false ∧
    (formIL 0x1F (.short ⟨1, 1, 3⟩)).bad = false ∧ (formIL 0x1F (.long ⟨0, 1, 0, 0, 0, 3⟩)).bad = false ∧
    Issues demo 0 4 ∧ Issues demo 0 8 := ⟨by decide, by decide, by decide, by decide, issues_demo 4 (.inl rfl), issues_demo 8 (.inr rfl)⟩

/-- 1.0 + 1.0 to f[d], and a comparison to g[d]. -/
theorem witness_FpOpsWriteResult :
    Issues demo 0 4 ∧ fpOp 0x00 0 0x3FF0000000000000 0x3FF0000000000000 0 = some (.toF 0x4000000000000000 0) ∧
    fpOp 0x08 0 0x3FF0000000000000 0x3FF0000000000000 0 = some (.toG 1 0) ∧ NoTrap demo 0 0 :=
  ⟨issues_demo 4 (.inl rfl), rfl, rfl, quiet_demo 0⟩

/-- 1 + 1 is 2 in FP64, and 1 / 0 is +∞ with DZ (R51, R54). -/
theorem test_fp64 :
    fpAdd .f64 .rne 0x3FF0000000000000 0x3FF0000000000000 = (0x4000000000000000, 0) ∧
    fpDiv .f64 .rne 0x3FF0000000000000 0 = (0x7FF0000000000000, 0x08) := by decide

/-- g1 holds 0x101F, and the L1 of core 0 holds its line. -/
def warm : State := at0 fun c => { c with
  arch := c.arch.setG 1 0x101F, l1 := Tab.set L1Line.reset c.l1 0x20 { L1Line.reset with valid := 0xF } }

theorem issues_warm (len : Nat) (h : len = 4 ∨ len = 8) : Issues warm 0 len := by
  rcases h with rfl | rfl <;> constructor <;> decide

theorem readable_warm (a k : Nat) (p : 0 < k) (h : a % 32 + k ≤ 32) (m : a + k ≤ Config.memTop)
    (l : (((warm.core 0).l1Line (a / 128)).poison) = 0) : Readable warm 0 a k :=
  ⟨p, h, m, by simp [State.poisoned, State.frameRetired, State.llcLine, warm, at0, State.setCore, State.reset, Mem.reset, NSet.has, LlcLine.reset], by rw [l]; simp, by decide, by decide⟩

/-- The last byte of a sector by lb, and a doubleword, a word and six bytes that end with one. -/
theorem witness_LoadsReadMemory :
    (∀ op ∈ [LoadOp.ld, .lw, .lwu, .lh, .lhu, .lb, .lbu], (formIL (loadNumber op) (.short ⟨0, 1, 0xFFF9⟩)).bad = false) ∧
    (∀ n ∈ [0x0F, 0x07, 0x16], (formIL n (.short ⟨0, 1, 0xFFF9⟩)).bad = false ∧ (formIL n (.long ⟨0, 1, 0, 0, 0, 0⟩)).bad = false) ∧
    memAddr warm 0 (formIL 0x0D (.short ⟨0, 1, 0⟩)) = 0x101F ∧ Readable warm 0 0x101F 1 ∧ InL1 warm 0 0x101F ∧
    memAddr warm 0 (formIL 0x08 (.short ⟨0, 1, 0xFFF9⟩)) = 0x1018 ∧ Readable warm 0 0x1018 8 ∧ InL1 warm 0 0x1018 ∧
    memAddr warm 0 (formIL 0x16 (.short ⟨0, 1, 0xFFFB⟩)) = 0x101A ∧ Readable warm 0 0x101A 6 ∧ Readable warm 0 0x101C 4 :=
  ⟨by decide, by decide, by decide, readable_warm _ _ (by decide) (by decide) (by decide) (by decide), by unfold InL1; decide, by decide,
   readable_warm _ _ (by decide) (by decide) (by decide) (by decide), by unfold InL1; decide, by decide,
   readable_warm _ _ (by decide) (by decide) (by decide) (by decide),
   readable_warm _ _ (by decide) (by decide) (by decide) (by decide)⟩

theorem witness_StoresSeenByCore :
    (∀ op ∈ [StoreOp.sd, .sw, .sh, .sb], (formIL (storeNumber op) (.short ⟨1, 1, 0xFFF9⟩)).bad = false ∧
      (formIL (storeNumber op) (.long ⟨1, 1, 0, 0, 0, 0⟩)).bad = false) ∧
    (∀ n ∈ [0x14, 0x15, 0x17], (formIL n (.short ⟨1, 1, 0xFFF9⟩)).bad = false) ∧
    Readable warm 0 0x1018 8 ∧ convertEnc .f64 .f32 0x3FF0000000000000 .rne false = (0x3F800000, 0) ∧
    (narrowLf48 0x3FF0000000000000).2 = 0 ∧ NoTrap warm 0 0 :=
  ⟨by decide, by decide, readable_warm _ _ (by decide) (by decide) (by decide) (by decide), by decide, by decide,
   .inl (by decide), by decide⟩

/-- An entry that holds byte 31 of the sector 0x1000. -/
def entry0 : SbEntry := ⟨0x1000, 0x80000000, BitVec.ofNat 256 (0xAB * 2 ^ 248), false, false, 3, none, 0, 0, 0, 0⟩

def storing : State := at0 fun c => { c with sb := [entry0] }

theorem witness_DrainedStoreReachesMemory :
    (storing.core 0).sb[0]? = some entry0 ∧ (storing.core 0).blockedSb 0 entry0 = false ∧ entry0.ver = none ∧
    entry0.dead = false ∧ entry0.keep = 0 ∧ entry0.addr.toNat % 32 = 0 ∧ entry0.addr.toNat + 32 ≤ Config.memTop ∧
    storing.frameRetired (entry0.addr.toNat / 4096) = false ∧ storing.lineCopying (entry0.addr.toNat / 128) = false ∧ DrainErr.l1 ≠ .path := by decide

theorem witness_LateStoreErrorIsLogged :
    (storing.core 0).blockedSb 0 entry0 = false ∧ (storing.core 0).l1Pend = none ∧ (storing.core 0).resetting = false ∧ (storing.core 0).lse.length < 8 := by decide

/-- A doubleword at g1 = 0x2000, and one a word beside the end of its sector. -/
theorem witness_AtomicsExchange :
    Issues (withG [(1, 0x2000)]) 0 4 ∧ 0x2000 % (64 / 8) = 0 ∧ Readable (withG [(1, 0x2000)]) 0 0x2000 8 ∧
    Readable (withG [(1, 0x201C)]) 0 0x201C 4 ∧ StacksQuiet (withG [(1, 0x2000)]) :=
  ⟨by constructor <;> decide, rfl, by constructor <;> decide, by constructor <;> decide, rfl, rfl⟩

/-- amoadd returns the old value and gives the sum; the operation on words wraps at 32 bits (R91). -/
theorem test_atomic_op : atomicOp 1 64 7 5 0 = 12 ∧ atomicOp 1 32 0xFFFFFFFF 1 0 = 0 := by decide

/-! ### Hypotheses that are met: exceptions and fences -/

theorem trap_state (cause : Nat) (h : cause ∈ [0x0E, 0x0F, 0x02, 0x06, 0x30, 0x31, 0x0D]) :
    Issues (withHandler demo cause) 0 4 ∧ Issues (withHandler demo cause) 0 8 ∧ EntersAtM (withHandler demo cause) 0 cause mHandler := by
  simp only [List.mem_cons, List.not_mem_nil, or_false] at h
  rcases h with rfl | rfl | rfl | rfl | rfl | rfl | rfl <;>
    exact ⟨by constructor <;> decide, by constructor <;> decide, entersAtM_of _ _ (by decide) (by decide)⟩

theorem witness_TrapsEnterHandler :
    EntersAtM (withHandler demo 0x0E) 0 0x0E mHandler ∧ EntersAtM (withHandler demo 0x0F) 0 0x0F mHandler ∧
    Issues (withHandler demo 0x02) 0 8 ∧ EntersAtM (withHandler demo 0x02) 0 0x02 mHandler :=
  ⟨(trap_state _ (by decide)).2.2, (trap_state _ (by decide)).2.2, (trap_state _ (by decide)).2.1, (trap_state _ (by decide)).2.2⟩

/-- 1.0 / 0.0 with DZ enabled (R54, R56). -/
def trapping : State :=
  let s := withHandler demo 0x06
  s.setCore 0 ((({ (s.core 0) with arch := (s.core 0).arch.setF 1 0x3FF0000000000000 } : Core)).setCr nFPCSR 0x80000)

theorem witness_TrappingFlagKeepsDestination :
    Issues trapping 0 4 ∧ fpOp 0x03 0 0x3FF0000000000000 0 0 = some (.toF 0x7FF0000000000000 0x08) ∧ (trapping.core 0).task = none ∧
    (0x08 : Flags) &&& (trapping.core 0).traps ≠ 0 ∧ EntersAtM trapping 0 0x06 mHandler :=
  ⟨by constructor <;> decide, rfl, by decide, by decide, entersAtM_of _ _ (by decide) (by decide)⟩

/-- g31 points at the first frame of the SRAM. -/
def inHandler : State := withG [(31, 0x7F0000000000)]

theorem witness_RtxRestoresFrame :
    Issues inHandler 0 4 ∧ (inHandler.core 0).pl = 3 ∧ (inHandler.core 0).arch.rg 31 = BitVec.ofNat 64 (sramBase + 0) ∧
    W64.fld (0 : W64) 1 0 ≠ 2 ∧
    ∀ i, i < 8 → (0 : W64) = BitVec.ofNat 64 (ofBytes ((List.range 8).map fun j => (inHandler.core 0).sramByte (0 + 8 * i + j))) :=
  ⟨by constructor <;> decide, by decide, by decide, by decide, by decide⟩

theorem witness_FencesComplete : Issues demo 0 4 ∧ demo.storesOut 0 = false ∧ demo.tb.mode = .stopped :=
  ⟨issues_demo 4 (.inl rfl), by decide, rfl⟩

def ticking : State := { demo with tb := { demo.tb with mode := .tracking } }

theorem witness_FenceEWaitsForBoundary :
    Issues ticking 0 4 ∧ ticking.tb.mode ≠ .stopped ∧ (ticking.core 0).wait = .none ∧ (ticking.core 0).resumeAt 3 = none :=
  ⟨by constructor <;> decide, by decide, by decide, by decide⟩

/-! ### Hypotheses that are met: the vector unit -/

/-- VL is 2, k1 holds 1, element 0 and 1 of v1 are 2.0 and 3.0 in FP32, those of v2 1.0 and 1.0. -/
def vec : State := at0 fun c =>
  let c := c.setCr 0x100 0x20000
  { c with arch := ((c.arch.setK 1 1).setV 1 0x4040000040000000).setV 2 0x3F8000003F800000 }

theorem issues_vec (len : Nat) (h : len = 4 ∨ len = 8) : Issues vec 0 len := by
  rcases h with rfl | rfl <;> constructor <;> decide

theorem unwatched_vec : Unwatched vec 0 := .inl (by decide)

theorem quiet_vec (fl : Flags) : NoTrap vec 0 fl := ⟨unwatched_vec, by
  have h : (vec.core 0).traps = 0 := by decide
  rw [h]; simp⟩

/-- v3 ← v1 + v2 under k1: element 0 is 3.0 and element 1 stays (R123, R139). -/
theorem test_vadd_masked :
    let c := (after (.floatingPointElementWise x0 (.short ⟨3, 1, 2, 1, 0x02⟩)) vec).core 0
    c.arch.el (vone 3 32) 0 = 0x40400000 ∧ c.arch.el (vone 3 32) 1 = 0 := by decide +kernel

/-- The six forms; a comparison into k7; a Sorrel operand whose last row is 511. -/
theorem witness_ElementWiseWritesActive :
    fpShort (formR 0x28 ⟨3, 1, 2, 1, 0x02⟩) = some ⟨.f32, 0, 3, 1, 1, .reg 2⟩ ∧
    EwRuns vec 0 4 ⟨.f32, 0, 3, 1, 1, .reg 2⟩ ∧
    EwRuns vec 0 4 ⟨.f32, 0xA, 7, 1, 0, .reg 2⟩ ∧
    fpLong 0x41 (formL 0x41 ⟨3, 1, 0, 0, 4, 511⟩) 511 = some ⟨.f32, 0, 3, 1, 0, .rows 511⟩ ∧
    EwRuns vec 0 8 ⟨.f32, 0, 3, 1, 0, .rows 511⟩ ∧
    intShort (formR 0x29 ⟨3, 1, 2, 0, 0x0B⟩) = some ⟨.i32, 0, 3, 1, 0, .reg 2⟩ ∧
    EwRuns vec 0 4 ⟨.i32, 0, 3, 1, 0, .reg 2⟩ ∧
    (intLong 0x80 (formL 0x80 ⟨3, 1, 2, 0, 0, 0⟩) 0).isSome = true ∧ EwRuns vec 0 8 ⟨.i32, 0, 3, 1, 0, .reg 2⟩ ∧
    fpImm (formI 0x2C ⟨1, 0x05, 0x3800⟩) 0x3800 = some ⟨.f32, 2, 1, 1, 0, .imm 0x3F000000⟩ ∧
    EwRuns vec 0 4 ⟨.f32, 2, 1, 1, 0, .imm 0x3F000000⟩ ∧
    (intImm (formI 0x2D ⟨1, 0, 1⟩) 1).isSome = true := by
  refine ⟨by decide, ⟨issues_vec 4 (.inl rfl), by decide, by simp, quiet_vec _⟩,
    ⟨issues_vec 4 (.inl rfl), by decide, by simp, quiet_vec _⟩, by decide,
    ⟨issues_vec 8 (.inr rfl), by decide, ?_, quiet_vec _⟩, by decide,
    ⟨issues_vec 4 (.inl rfl), by decide, by simp, quiet_vec _⟩, by decide,
    ⟨issues_vec 8 (.inr rfl), by decide, by simp, quiet_vec _⟩, by decide,
    ⟨issues_vec 4 (.inl rfl), by decide, by simp, quiet_vec _⟩, by decide⟩
  intro r h
  simp only [BSrc.rows.injEq] at h
  subst h
  decide

theorem witness_ConversionsMapActive :
    fmtIn [0x0, 0x2, 0x3, 0x4] 0x2 = some .f32 ∧ (0x0E : Nat) < 0x0F ∧ badOps (vop 1 32 3 32) [vop 1 32 1 32] = false ∧
    cvtFmts (formR 0x2A ⟨3, 1, 2, 0, 0x13⟩) = some (.f32, .f16) ∧ (0x13 % 16 ∈ srTargets) ∧
    badOps (vop 1 32 3 16) [vop 1 32 1 32] = false ∧ fmtIn [5, 6, 7, 8, 9] 9 = some .e2m1 ∧
    funcOp ⟨3, 1, 0, 0, 0x99⟩ = 9 ∧ badOps (vop 1 16 3 8) [vop 1 16 1 16] = false ∧ NoTrap vec 0 0x7F :=
  ⟨by decide, by decide, by decide, by decide, by decide, by decide, by decide, by decide, by decide, quiet_vec _⟩

theorem witness_QuantiseUsesBlockCode :
    Issues vec 0 4 ∧ fmtIn [5, 6, 7, 8, 9] 5 = some .e4m3 ∧ funcOp ⟨3, 1, 2, 0, 0x75⟩ < 8 ∧ (vec.core 0).traps = 0 ∧
    Unwatched vec 0 ∧ badOps (vop 1 16 3 8) [vop 1 16 1 16] = false ∧ badOps (vop 1 32 3 8) [vop 1 32 1 32] = false :=
  ⟨issues_vec 4 (.inl rfl), by decide, by decide, by decide, unwatched_vec, by decide, by decide⟩

theorem witness_ReductionsWriteElementZero :
    Issues vec 0 4 ∧ fmtIn redFmts 2 = some .f32 ∧ badOps (vone 3 (sumAcc .f32).hold.width) [vop 1 32 1 32] = false ∧
    badOps (vone 3 32) [vop 1 32 1 32] = false ∧ (∃ p, dotFmts (formR 0x2F ⟨3, 1, 2, 0, 0x42⟩) = some p) ∧
    badOps (vone 3 64) [vop 1 32 1 32, vop 1 32 2 32] = false ∧ amaxFmt (formR 0x2A ⟨3, 1, 2, 0, 0x32⟩) = some .f32 ∧
    0 < ((vec.core 0).shape 32 0).n ∧ NoTrap vec 0 0x7F :=
  ⟨issues_vec 4 (.inl rfl), by decide, by decide, by decide, ⟨_, rfl⟩, by decide, by decide, by decide, quiet_vec _⟩

theorem witness_AmaxPerBlock :
    Issues vec 0 4 ∧ amaxFmt (formR 0x2A ⟨3, 1, 2, 0, 0x22⟩) = some .f32 ∧ (vec.core 0).traps = 0 ∧ Unwatched vec 0 ∧
    badOps (vone 3 32) [vop 1 32 1 32] = false := ⟨issues_vec 4 (.inl rfl), by decide, by decide, unwatched_vec, by decide⟩

/-- The amax of −2 and 1.5 is 2 (R47). -/
theorem test_amax : (amax .f32 [(0xC0000000, true), (0x3FC00000, true), (0x7F000000, false)]).1 = 0x40000000 := by decide

theorem witness_SoftmaxWritesRow :
    Issues vec 0 4 ∧ fmtIn [0x0, 0x2, 0x3, 0x4] 2 = some .f32 ∧ badOps (vop 1 32 3 32) [vop 1 32 1 32] = false ∧
    NoTrap vec 0 (smaxRow .f32 []).2 ∧ (Fmt.value .f32 0x7FC00000).isNan = true :=
  ⟨issues_vec 4 (.inl rfl), by decide, by decide, quiet_vec _, by decide⟩

theorem witness_MaskOperations :
    Issues vec 0 4 ∧ (0xA0 : BitVec 8).toNat % 16 = 0 ∧ (⟨0, 7, 7, 0, 0xA0⟩ : RF).a.toNat < 8 ∧
    (⟨7, 7, 7, 0, 0xA0⟩ : RF).d.toNat < 8 ∧ (⟨7, 7, 7, 0, 0xA0⟩ : RF).b.toNat < 8 :=
  ⟨issues_vec 4 (.inl rfl), by decide, by decide, by decide, by decide⟩

/-- GROUP set to 8, from a count above VLMAX and from 0. -/
theorem witness_VstripSetsLength :
    Issues vec 0 4 ∧ (⟨3, 1, 7, 0, 0x02⟩ : RF).b.toNat < 8 ∧ (0x02 : BitVec 8).toNat % 16 ≠ 1 ∧ fmtOf 2 = some .f32 ∧
    (⟨3, 1, 7, 0, 0x02⟩ : RF).a ≠ 0 := ⟨issues_vec 4 (.inl rfl), by decide, by decide, by decide, by decide⟩

/-- vstrip of 200 in FP32 at G 1: VL 128, 72 remain (R126). -/
theorem test_vstrip :
    let c := (after (.vstrip x0 ⟨3, 1, 0, 0, 0x02⟩) (withG [(1, 200)])).core 0
    c.vl = 128 ∧ c.arch.rg 3 = 128 ∧ c.arch.rg 1 = 72 := by decide

theorem witness_BroadcastAndExtract :
    Issues vec 0 4 ∧ fmtIn redFmts 2 = some .f32 ∧ fmtIn redFmts 0xB = some .i32 ∧ (vop 1 32 31 32).odd = false ∧ NoTrap vec 0 0 :=
  ⟨issues_vec 4 (.inl rfl), by decide, by decide, by decide, quiet_vec _⟩

/-- The last row that a group of 1 reaches, and the first that it does not. -/
theorem witness_SorrelMovesRows :
    Issues (withG [(1, 511)]) 0 4 ∧ (5 : Nat) % ((withG [(1, 511)]).core 0).group = 0 ∧
    (((withG [(1, 511)]).core 0).arch.rg 1).toNat + ((withG [(1, 511)]).core 0).group ≤ 512 :=
  ⟨by constructor <;> decide, by decide, by decide⟩

theorem witness_SorrelRangeTraps :
    let s := withHandler (withG [(1, 512)]) 0x30
    Issues s 0 4 ∧ EntersAtM s 0 0x30 mHandler ∧ 512 < ((s.core 0).arch.rg 1).toNat + (s.core 0).group :=
  ⟨by constructor <;> decide, entersAtM_of _ _ (by decide) (by decide), by decide⟩

theorem test_sorrel_put : (((after (.vsput x0 ⟨1, 0, 0, 0, 0x60⟩) vec).core 0).arch.row 0).extractLsb' 0 32 = 0x40000000 := by decide +kernel

/-! ### Hypotheses that are met: vector memory and tiles -/

/-- As `vec`, with g1 at 0x1000 and the lines from there to 0x1FFF in the L1. -/
def vecMem : State := vec.setCore 0 { (vec.core 0) with
  arch := (vec.core 0).arch.setG 1 0x1000,
  l1 := (List.range 32).foldl (fun t i => Tab.set L1Line.reset t (0x20 + i) { L1Line.reset with valid := 0xF }) [] }

theorem issues_vecMem (len : Nat) (h : len = 4 ∨ len = 8) : Issues vecMem 0 len := by
  rcases h with rfl | rfl <;> constructor <;> decide

theorem lines_vecMem : ∀ i, i < 32 → (vecMem.core 0).l1Line (0x20 + i) = { L1Line.reset with valid := 0xF } := by decide +kernel

theorem ready_vecMem (a len : Nat) (h : 0x1000 ≤ a) (e : a + len ≤ 0x2000) : SpanReady vecMem 0 a len := by
  intro k hk
  have hl := lines_vecMem ((a + k) / 128 - 0x20) (by omega)
  have he : 0x20 + ((a + k) / 128 - 0x20) = (a + k) / 128 := by omega
  rw [he] at hl
  refine ⟨⟨by omega, by omega, by simp only [Config.memTop]; omega, ?_, by rw [hl]; simp [L1Line.reset], by decide, by decide⟩, ?_⟩
  · simp [State.poisoned, State.frameRetired, State.llcLine, vecMem, vec, at0, State.setCore, State.reset, Mem.reset, NSet.has,
      LlcLine.reset]
  · unfold InL1
    rw [hl]
    have all : ∀ i, i < 4 → (0xF : BitVec 4) &&& BitVec.ofNat 4 (2 ^ i) ≠ 0 := by decide
    exact ⟨all _ (Nat.mod_lt _ (by omega)), rfl, fun t ht => absurd ht (List.not_mem_nil (a := t))⟩

/-- The last sectors of the page: elements of FP32, a mask register, and Sorrel row 511. -/
theorem witness_VectorLoadsReadMemory :
    Issues vecMem 0 4 ∧ (vecMem.core 0).resumeAt 2 = none ∧ fmtOf 2 = some .f32 ∧ (vop 1 32 3 32).odd = false ∧
    SpanReady vecMem 0 0x1FFC 4 ∧ fmtIn gatFmts 2 = some .f32 ∧ badOps (vop 1 32 3 32) [vop 1 32 2 32] = false ∧
    SpanReady vecMem 0 0x1C00 1024 ∧ 511 + 1 ≤ 512 ∧ SpanReady vecMem 0 0x1E00 (512 * 1) :=
  ⟨issues_vecMem 4 (.inl rfl), by decide, by decide, by decide, ready_vecMem _ _ (by decide) (by decide), by decide, by decide,
   ready_vecMem _ _ (by decide) (by decide), by decide, ready_vecMem _ _ (by decide) (by decide)⟩

theorem witness_VectorStoresWriteElements :
    Issues vecMem 0 4 ∧ (vecMem.core 0).resumeAt 2 = none ∧ fmtOf 2 = some .f32 ∧ (vop 1 32 1 32).odd = false ∧
    Readable vecMem 0 0x1000 1 ∧ NoTrap vecMem 0 0 ∧ fmtIn gatFmts 2 = some .f32 ∧ badSrcs [vop 1 32 1 32, vop 1 32 2 32] = false ∧
    Readable vecMem 0 0x13FF 1 ∧ StacksQuiet vecMem :=
  ⟨issues_vecMem 4 (.inl rfl), by decide, by decide, by decide, (ready_vecMem 0x1000 1 (by decide) (by decide) 0 (by decide)).1,
   ⟨.inl (by decide), by decide⟩, by decide, by decide, (ready_vecMem 0x13FF 1 (by decide) (by decide) 0 (by decide)).1, rfl, rfl⟩

/-- A tile of `rows` rows of `rowB` bytes. -/
def tileOf (rows rowB : Nat) : Tile := { Tile.reset with cfg := BitVec.ofNat 64 (rowB + 2 ^ 16 * rows) }

/-- Tiles 0, 1 and 8 hold 2 rows of 8 bytes; g1 is 0x1000 and g2 is 0. -/
def tiled : State := vecMem.setCore 0 { (vecMem.core 0) with
  arch := [0, 1, 8].foldl (fun a t => a.setTile t (tileOf 2 8)) (vecMem.core 0).arch }

theorem issues_tiled (len : Nat) (h : len = 4 ∨ len = 8) : Issues tiled 0 len := by
  rcases h with rfl | rfl <;> constructor <;> decide

theorem shaped_tiled (t : Nat) (h : t = 0 ∨ t = 1 ∨ t = 8) : Shaped ((tiled.core 0).arch.tile t) := by
  rcases h with rfl | rfl | rfl <;> constructor <;> decide

theorem witness_TileLoadsFillRows :
    (formTile (.short ⟨8, 1, 0, 0, 0⟩)).bad = false ∧ (formTile (.short ⟨8, 1, 0, 0, 0⟩)).d < 16 ∧ Issues tiled 0 4 ∧
    (tiled.core 0).resumeAt 1 = none ∧ ((tiled.core 0).arch.tile 8).configured = true ∧ Shaped ((tiled.core 0).arch.tile 8) ∧
    0 < ((tiled.core 0).arch.tile 8).nRows ∧ ((tiled.core 0).arch.tile 8).rowB % 8 = 0 ∧ SpanReady vecMem 0 0x1FF8 8 :=
  ⟨by decide, by decide, issues_tiled 4 (.inl rfl), by decide, by decide, shaped_tiled 8 (by decide), by decide, by decide,
   ready_vecMem _ _ (by decide) (by decide)⟩

theorem witness_TileStoresWriteRows :
    (formTile (.long 0xC2 ⟨8, 1, 0, 0, 0, 8⟩)).bad = false ∧ Issues tiled 0 8 ∧ (tiled.core 0).resumeAt 1 = none ∧
    ((tiled.core 0).arch.tile 8).configured = true ∧ Shaped ((tiled.core 0).arch.tile 8) ∧
    (∀ r ∈ List.range ((tiled.core 0).arch.tile 8).nRows, ((tiled.core 0).arch.tile 8).poisoned r = false) ∧ NoTrap tiled 0 0 ∧ StacksQuiet tiled :=
  ⟨by decide, issues_tiled 8 (.inr rfl), by decide, by decide, shaped_tiled 8 (by decide), by decide, ⟨.inl (by decide), by decide⟩, rfl, rfl⟩

/-- The last row of tile 8, in FP32. -/
theorem witness_TileMovesCopyElements :
    let s := tiled.setCore 0 { (tiled.core 0) with arch := (tiled.core 0).arch.setG 3 1 }
    Issues s 0 4 ∧ moveFmt (formR 0x2E ⟨1, 8, 3, 0, 0x82⟩) = some .f32 ∧ (s.core 0).arch.tileView 8 .f32 = some (2, 2, false) ∧
    Shaped ((s.core 0).arch.tile 8) ∧ ((s.core 0).shape 32 0).elems = [0, 1] ∧ (∀ j ∈ [0, 1], 1 + j / 2 < 2) ∧
    ((s.core 0).arch.tile 8).poisoned 1 = false :=
  ⟨by constructor <;> decide, by decide, by decide, by constructor <;> decide, by decide +kernel, by decide, by decide⟩

/-- A map whose 16 nibbles are good, and one whose last nibble is bad. -/
theorem witness_TileShapesSet :
    let c := ({ Core.reset with mode := .running } : Core).setCr 0x204 0x400100
    Issues tiled 0 4 ∧ (⟨15, 0, 0, 0, 4⟩ : RF).d.toNat < 16 ∧
    (∀ i, i < 16 → badNibble 0x8888888888888888 (fun k => c.arch.cr (0x204 + k)) i = false) ∧
    badNibble 0x1888888888888888 (fun k => c.arch.cr (0x204 + k)) 15 = true ∧
    (∀ j, j < 15 → badNibble 0x1888888888888888 (fun k => c.arch.cr (0x204 + k)) j = false) ∧
    EntersAtM (withHandler demo 0x31) 0 0x31 mHandler :=
  ⟨issues_tiled 4 (.inl rfl), by decide, by decide, by decide, by decide, (trap_state _ (by decide)).2.2⟩

theorem test_trel : (((after (.trel x0 ⟨8, 0, 0, 0, 4⟩) tiled).core 0).arch.tile 8).valid = false := by decide

/-- M and N of 2, and with one row of A, M of 1 (R178, R198). -/
theorem witness_MmaIssues :
    Issues tiled 0 4 ∧ (mmaShort ⟨8, 0, 1, 0, 0x20⟩).ok = true ∧
    (∃ sh, (tiled.core 0).arch.mmaShape (mmaShort ⟨8, 0, 1, 0, 0x20⟩) = .inr sh ∧ sh.m = 2 ∧ sh.n = 2) ∧
    (mmaLong ⟨8, 0, 1, 0, 0, 0x22⟩).ok = true :=
  ⟨issues_tiled 4 (.inl rfl), by decide, ⟨_, rfl, by decide, by decide⟩, by decide⟩

/-- Tile 0 has one row. -/
def oneRow : State := tiled.setCore 0 { (tiled.core 0) with
  arch := ((tiled.core 0).arch.setTile 0 (tileOf 1 8)).setTile 8 (tileOf 1 8) }

theorem witness_MmaOnDotUnits :
    ∃ sh, Issues oneRow 0 4 ∧ (oneRow.core 0).arch.mmaShape (mmaShort ⟨8, 0, 1, 0, 0x22⟩) = .inr sh ∧ sh.m = 1 ∧
      (oneRow.core 0).arch.mmaPoison (mmaShort ⟨8, 0, 1, 0, 0x22⟩) sh = none ∧ Shaped ((oneRow.core 0).arch.tile 8) ∧
      NoTrap oneRow 0 ((oneRow.core 0).arch.mmaAll (mmaShort ⟨8, 0, 1, 0, 0x22⟩) sh noErr).2 := by
  refine ⟨_, by constructor <;> decide, rfl, by decide, by decide, by constructor <;> decide, .inl (by decide), ?_⟩
  have h : (oneRow.core 0).traps = 0 := by decide
  rw [h]; simp

theorem witness_MatrixVectorWritesOutputs :
    Issues vecMem 0 8 ∧ (∃ t, tmvArgs 2 ⟨3, 1, 2, 0, 4, 0x00004002⟩ false = some t ∧ t.k = 2) ∧
    (∃ t, tmvArgs 5 ⟨3, 1, 2, 0, 4, 0x00004002⟩ true = some t ∧ t.k = 2) ∧
    SpanReady vecMem 0 0x1FF8 8 ∧ (1 : Nat) ≤ 30 ∧ 2 + (vecMem.core 0).group ≤ 31 ∧ NoTrap vecMem 0 0 :=
  ⟨issues_vecMem 8 (.inr rfl), ⟨_, rfl, by decide⟩, ⟨_, rfl, by decide⟩, ready_vecMem _ _ (by decide) (by decide), by decide, by decide,
   .inl (by decide), by decide⟩

/-! ### Hypotheses that are met: tile operations and engines -/

/-- The tile operation issued, placed on engine 0, run to its end, and waiting for a replay. -/
def issued : State := after (.tmma x0 ⟨8, 0, 1, 0, 0x22⟩) tiled
def placed : State := after (.tmmaStart ⟨0, []⟩) issued
def ended : State := after (.engineRunEnd 0 0 .none) placed
def replaying : State :=
  (placed.setEng 0 { (placed.eng 0) with run0 := none }).setPool 0 { (placed.pool 0) with replays := [⟨0, 0, [0]⟩] }

theorem witness_TileOperationsRun_start :
    ∃ o, (issued.core 0).nextOp = some o ∧ (clusterEngines 0).any (fun e => (issued.eng e).ok) = true ∧ issued.placeMma 0 o = [0] := by
  refine ⟨((issued.core 0).nextOp).get (by decide +kernel), by decide +kernel, by decide +kernel, by decide +kernel⟩

/-- No engine of cluster 0 is in service (R195). -/
def stranded : State := { issued with engines := (List.range 32).map fun e => (e, { Engine.reset with ok := false, state := .retired }) }

theorem witness_TileOperationsRun_stranded :
    ∃ o, (stranded.core 0).nextOp = some o ∧ (clusterEngines 0).any (fun e => (stranded.eng e).ok) = false ∧
      o.snap.mmaPoison o.args o.shape = none := by
  refine ⟨((stranded.core 0).nextOp).get (by decide +kernel), by decide +kernel, by decide +kernel, by decide +kernel⟩

theorem witness_TileOperationsRun_end :
    ∃ r o, (placed.eng 0).run 0 = some r ∧ (placed.core r.core).top r.seq = some o ∧ o.snap.mmaPoison o.args o.shape = none ∧
      o.pair = false ∧ o.runs = [] ∧ o.due = 1 :=
  ⟨⟨0, 0, false, false⟩, ((placed.core 0).top 0).get (by decide +kernel), by decide +kernel, by decide +kernel, by decide +kernel,
   by decide +kernel, by decide +kernel, by decide +kernel⟩

theorem witness_TileOperationsRun_replay :
    ∃ q rest, replaying.replayPicks 0 = (q, 1) :: rest ∧ ((replaying.core q.core).top q.seq).isSome = true :=
  ⟨⟨0, 0, [0]⟩, [], by decide +kernel, by decide +kernel⟩

theorem witness_TileOperationSettles :
    ∃ o r, (ended.core 0).tops = [o] ∧ o.stat = .ended (.ok r) ∧ (ended.core 0).heldSt = [] ∧ Unwatched ended 0 ∧
      r.flags &&& (ended.core 0).traps = 0 := by
  refine ⟨(ended.core 0).tops.head (by decide +kernel), ?_⟩
  match h : ((ended.core 0).tops.head (by decide +kernel)).stat with
  | .ended (.ok r) =>
    refine ⟨r, by decide +kernel, rfl, by decide +kernel, .inl (by decide +kernel), ?_⟩
    have h : (ended.core 0).traps = 0 := by decide +kernel
    rw [h]; simp
  | .waiting => exact absurd h (by decide +kernel)
  | .running => exact absurd h (by decide +kernel)
  | .replaying => exact absurd h (by decide +kernel)
  | .ended (.fault c t) =>
    exact absurd (show (match ((ended.core 0).tops.head (by decide +kernel)).stat with
      | .ended (.fault _ _) => true
      | _ => false) = true by rw [h]) (by decide +kernel)

/-- 2.0 × 1.0 summed over one block of two: an operation that settled has written tile 8 (R110). -/
theorem test_tile_op_settles : (((after (.tileOpSettle 0) ended).core 0).arch.tile 8).valid = true ∧
    ((after (.tileOpSettle 0) ended).core 0).tops = [] := by decide +kernel

def tested : State := State.reset.setEng 0 { Engine.reset with state := .testing, why := .redirect }

theorem witness_EngineStandingChanges :
    ({ State.reset with ctl := { State.reset.ctl with verdicts := [⟨0, 1, 0, 0, 0, none, [.quarantine 0 1 0]⟩] } } : State).ctl.stalled = false ∧
    ((State.reset.setEng 0 { Engine.reset with state := .quarantined }).eng 0).state = .quarantined ∧
    (tested.eng 0).idle = true ∧ (tested.eng 0).why = .redirect ∧ (tested.eng 0).lower = false ∧ (tested.eng 0).upper = false ∧
    tested.ctl.stalled = false := by decide

/-! ### Hypotheses that are met: core registers and tasks -/

/-- As `demo` at level U. -/
def user : State := demo.setCore 0 ((demo.core 0).setCr 0x010 0)

theorem witness_CoreRegistersRead :
    (cregLvl 0x012).isSome = true ∧ (∀ l, cregLvl 0x012 = some l → ∀ lv, l.rd = some lv → lv ≤ (demo.core 0).pl) ∧
    cregLvl 0xFFF = none ∧ EntersAtM (withHandler demo 0x02) 0 0x02 mHandler ∧
    (∃ l lv, cregLvl 0x012 = some l ∧ l.rd = some lv ∧ ((withHandler user 0x0D).core 0).pl < lv) ∧
    Issues (withHandler user 0x0D) 0 4 ∧ EntersAtM (withHandler user 0x0D) 0 0x0D mHandler :=
  ⟨by decide, by decide, by decide, (trap_state _ (by decide)).2.2, ⟨_, _, rfl, rfl, by decide⟩, by constructor <;> decide,
   entersAtM_of _ _ (by decide) (by decide)⟩

/-- CORE_SR_SEED; CORE_PEND, which is read only; CORE_DTB_M below level M. -/
theorem witness_CoreRegistersWrite :
    Issues demo 0 4 ∧ cregLvl 0x002 = some ⟨some 0, some 0⟩ ∧ (0x002 ∉ [0x001, 0x028, 0x030, 0x041, 0x100, 0x101, 0x400, 0x500]) ∧
    (∃ l, cregLvl 0x014 = some l ∧ l.wr = none) ∧ cregLvl 0x022 = some ⟨some 3, some 3⟩ ∧
    ((withHandler user 0x0D).core 0).pl < 3 ∧ EntersAtM (withHandler user 0x0D) 0 0x0D mHandler :=
  ⟨issues_demo 4 (.inl rfl), by decide, by decide, ⟨_, rfl, rfl⟩, by decide, by decide, entersAtM_of _ _ (by decide) (by decide)⟩

theorem witness_CoreRegisterActions :
    Issues demo 0 4 ∧ Unwatched demo 0 ∧ 1 ≤ (demo.core 0).pl ∧ (demo.core 0).l1Miss = [] ∧ (demo.core 0).pfWait = [] ∧
    (demo.core 0).pfAddrs = [] ∧ demo.storesOut 0 = false ∧ demo.running = true ∧
    (0x2 : W64).toNat.testBit 1 = true ∧
    ((at0 fun c => { c with missMode := some (false, []) }).core 0).missMode = some (false, []) :=
  ⟨issues_demo 4 (.inl rfl), .inl (by decide), by decide, by decide, by decide, by decide, by decide, by decide, by decide, by decide⟩

/-- FSET over W1C: the flag that a write both clears and sets is set (R58). -/
theorem witness_FsetPrevailsOverClear :
    let s := withG [(1, 0x01000001)]
    Issues s 0 4 ∧ ((s.core 0).arch.rg 1).toNat.testBit 0 = true ∧ ((s.core 0).arch.rg 1).toNat.testBit 24 = true :=
  ⟨by constructor <;> decide, by decide, by decide⟩

/-- A task that waits for nothing, for any core. -/
def desc0 : TaskDesc :=
  { addr := 0x8000, seed := 9, taskid := 77, slot := 0xFF, affinity := 0xFF, watch := false, spec := false, check := 1, scope := 0,
    watchv := 0, version := 0, waits := [], sigs := [(5, 2)] }

def task0 : QTask := ⟨0, desc0, false⟩

/-- Core 0 runs it. -/
def working : State := at0 fun c => { c with task := some ⟨task0, 0, false⟩ }

theorem witness_TaskRegistersWait :
    Issues demo 0 4 ∧ 1 ≤ (demo.core 0).pl ∧ (demo.core 0).task = none ∧ Issues working 0 4 ∧ (working.core 0).task.isSome = true :=
  ⟨issues_demo 4 (.inl rfl), by decide, by decide, by constructor <;> decide, by decide⟩

/-- Core 0 waits for a task, and one stands in its own cluster's queue or the device's. -/
def taking : State := (at0 fun c => { c with wait := .take 3 }).setQueue ((({ Core.reset with mode := .running } : Core).searchOrder 0).headD (0, [])).1 [task0]

theorem witness_TaskBegins :
    (taking.core 0).runs = true ∧ (taking.core 0).wait = .take 3 ∧ ((taking.core 0).ie && (taking.core 0).pend.any) = false ∧
    (taking.core 0).noTake = false ∧ (taking.findTask 0).isSome = true := by decide

theorem test_task_take :
    let c := (after (.taskTake 0) taking).core 0
    c.arch.rg 3 = 0x8001 ∧ c.task.isSome = true ∧ c.cr 0x002 = 9 ∧ c.wait = .none := by decide +kernel

def ending : State := at0 fun c => { c with task := some ⟨task0, 0, false⟩, wait := .tdone 4 }

theorem witness_TaskEnds :
    (ending.core 0).runs = true ∧ ending.asyncDue 0 = false ∧ (ending.core 0).wait = .tdone 4 ∧ (ending.core 0).tops = [] ∧
    ending.storesOut 0 = false ∧ ending.ctl.coreTests = [] ∧ (∀ i, i < 8 → (ending.eng (8 * 0 + i)).testDue = false) ∧
    (∀ v, v < Config.versions → (ending.ver v).undecided = false) ∧ ending.ctl.stalled = false ∧ ending.ctl.ends = [] ∧
    (ending.regF (wMBX + 0x08) 31 0 + 2 ^ 32 - ending.regF (wMBX + 0x10) 31 0) % 2 ^ 32 ≠ 2048 := by decide

theorem test_task_end : ((after (.taskEnd 0) ending).sheaf 5) = 2 ∧ ((after (.taskEnd 0) ending).core 0).task = none := by decide

def committed : State := State.reset.setVer 15 { Version.reset with state := .closed, last := 1, committing := true }

theorem witness_CommittedVersionFrees : (committed.ver 15).committing = true ∧ (committed.ver 15).remote = [] := by decide

/-- Each pending cause first in its turn, with IE set. -/
def pending (p : Pend) (cause : Nat) : State :=
  let s := withHandler (at0 fun c => (c.setCr 0x010 7)) cause
  s.setCore 0 { (s.core 0) with pend := p }

theorem witness_AsynchronousDelivery :
    (∀ q ∈ [(({ Pend.reset with lse := true } : Pend), 0x0B), ({ Pend.reset with rstore := true }, 0x0A),
        ({ Pend.reset with msg := true }, 0x21), ({ Pend.reset with epoch := true }, 0x20)],
      let s := pending q.1 q.2
      (s.core 0).runs = true ∧ (s.core 0).tops = [] ∧ s.midRemote 0 = false ∧ (s.core 0).wait = .none ∧ (s.core 0).parity = [] ∧
      (s.core 0).ie = true ∧ s.verdictNow 0 = false ∧ s.findDesc 0 q.2 = some mHandler ∧ (s.core 0).spec = false) := by decide

theorem witness_AsynchronousDelivery_other :
    (let s := pending { Pend.reset with verdict := true } 0x22
     (s.core 0).ie = true ∧ s.verdictNow 0 = false ∧ (s.core 0).pend.lse = false ∧ (s.core 0).pend.rstore = false ∧
     s.discarding 0 = false ∧ s.findDesc 0 0x22 = some mHandler) ∧
    demo.findDesc 0 0x20 = none ∧ (demo.core 0).task = none := by decide

/-- Firmware on core 0 with these messages pending. -/
def messaged (m : W64) : State := at0 fun c => { c with pend := { Pend.reset with msg := true, msgMask := m } }

theorem witness_AsynchronousDelivery_firmware :
    (messaged 1).asyncDue 0 = false ∧ ((messaged 1).core 0).fwTakes = true ∧
    ((messaged 1).core 0).pend.msgMask.toNat.testBit 0 = true ∧ ((messaged 2).core 0).pend.msgMask.toNat.testBit 0 = false ∧
    (at0 id).asyncDue 0 = false ∧ ((at0 id).core 0).fwTakes = false := by decide

theorem witness_WedgeIsReported :
    let s : State := { State.reset with ctl := { State.reset.ctl with wedges := [⟨95, 0x0E, 0, none⟩] } }
    s.ctl.wedges.find? (fun w => w.core == 95) = some ⟨95, 0x0E, 0, none⟩ ∧ s.ctl.stalled = false ∧
    (s.regF (wMBX + 0x08) 31 0 + 2 ^ 32 - s.regF (wMBX + 0x10) 31 0) % 2 ^ 32 < 2047 ∧
    (⟨95, 0x0E, 0, some 7⟩ : WedgeMsg).task = some 7 ∧ State.reset.ctl.wedges.find? (fun w => w.core == 95) = none ∧
    ((s.setReg (wMBX + 0x08) 2048).regF (wMBX + 0x08) 31 0 + 2 ^ 32 - (s.setReg (wMBX + 0x08) 2048).regF (wMBX + 0x10) 31 0) % 2 ^ 32 =
      2048 := by decide

/-! ### Hypotheses that are met: caches, Swath, stacks -/

/-- The last line of visible memory; a line that the L1 lacks; translations to remove; level U. -/
theorem witness_CacheInstructions :
    let s := withG [(1, BitVec.ofNat 64 (Config.memTop - 1))]
    let a := ((s.core 0).arch.rg 1).toNat
    Issues s 0 4 ∧ a / 128 * 128 + 128 ≤ Config.memTop ∧ (s.core 0).sb = [] ∧ (s.core 0).heldSt = [] ∧ (s.core 0).heldVer = none ∧
    a < Config.memTop ∧ ((s.core 0).l1Miss.any fun m => m.line == a / 128) = false ∧ (s.core 0).l1Miss.length < (s.core 0).missMax ∧
    s.sliceFull (a / 128) = false ∧ ((s.core 0).l1Line (a / 128)).valid ≠ 0xF ∧ 1 ≤ (s.core 0).pl ∧
    s.pfUnder (fun _ => true) = false ∧ ((withHandler user 0x0D).core 0).pl = 0 ∧ EntersAtM (withHandler user 0x0D) 0 0x0D mHandler ∧
    StacksQuiet s :=
  ⟨by constructor <;> decide, by decide, by decide, by decide, by decide, by decide, by decide, by decide, by decide, by decide,
   by decide, by decide, by decide, entersAtM_of _ _ (by decide) (by decide), rfl, rfl⟩

theorem witness_LineFillCompletesMiss :
    let s := at0 fun c => { c with l1Miss := [⟨0x20, 0x3, 0, false, 0, []⟩] }
    (s.core 0).l1Miss.find? (fun x => x.line == 0x20) = some ⟨0x20, 0x3, 0, false, 0, []⟩ ∧ isRemoteLine 0x20 = false ∧
    s.lineCopying 0x20 = false ∧ (s.core 0).pfWait = [] ∧ (s.core 0).l1Pend = none := by decide

/-- Channel 15: a range of the last line, set by the host; and an operation in progress. -/
def swathSet : State := (State.reset.setReg (swAt 15) (BitVec.ofNat 64 (Config.memTop - 128))).setReg (swAt 15 + 8) 1

def swathBusy (op : Nat) : State :=
  { State.reset with mem := { State.reset.mem with
      served := true, swath := [(15, { Swath.reset with busy := true, first := 0x20, lines := 1, op := op })] } }

theorem witness_SwathStarts :
    swathSet.running = true ∧ (swathSet.swath 15).busy = false ∧ 0 < swathSet.regF (swAt 15 + 8) 33 0 ∧
    swathSet.regF (swAt 15) 46 7 * 128 + 128 * swathSet.regF (swAt 15 + 8) 33 0 ≤ Config.memTop ∧
    ((swathBusy 1).swath 15).busy = true := by decide

theorem witness_SwathTreatsLines :
    (∀ op, op < 6 → let x := (swathBusy op).swath 15
      x.busy = true ∧ x.aborted = false ∧ x.first ≤ 0x20 ∧ 0x20 < x.first + x.lines ∧ x.treated.has 0x20 = false ∧ x.op = op) ∧
    (swathBusy 5).mem.served = true ∧ (swathBusy 5).lineCopying 0x20 = false ∧ (swathBusy 3).frameRetired (0x20 / 32) = false ∧ ({ (swathBusy 1).swath 15 with count := 1 } : Swath).lines = 1 := by decide

/-- ZERO treats its line: the line is zero and counted (R284). -/
theorem test_swath_zero :
    let s := (swathBusy 3).putBytes 0x1000 [7]
    s.byte 0x1000 = 7 ∧ (after (.swathLine 15 0x20) s).byte 0x1000 = 0 := by decide +kernel

/-- A write-back, and a row that is copied. -/
def stacked : State :=
  { State.reset with mem := { State.reset.mem with
      wbs := [(0x40, 0xF)], copying := [⟨⟨31, 31, 95, 16399⟩, 16399, 0⟩] } }

theorem witness_StackAccesses :
    stacked.readGives 0x80 (.groups 0) = some false ∧ stacked.readGives 0x80 .uncorrectable = none ∧
    stacked.mem.wbs.find? (fun q => q.1 == 0x40) = some (0x40, 0xF) ∧ stacked.lineCopying 0x40 = false ∧
    isRemoteLine 0x40 = false ∧ stacked.frameRetired (0x40 / 32) = false ∧ stacked.pel.homeWait = [] ∧
    stacked.mem.copying.find? (fun c => c.row.stack == 31 && c.row.pch == 31 && c.row.bank == 95) =
      some ⟨⟨31, 31, 95, 16399⟩, 16399, 0⟩ := by decide +kernel

def windows : State := { State.reset with tb := { State.reset.tb with refMode := true, window := some (0, 100) } }

theorem witness_RefreshDebts :
    windows.pins.clocks = true ∧ windows.windowed = true ∧ Tab.get 0 (windows.stack 31).debt (debtKey 31 95) < 512 ∧
    512 ≤ Tab.get 0 ((windows.setStack 31 { Stack.reset with debt := [(debtKey 31 95, 512)] }).stack 31).debt (debtKey 31 95) ∧
    State.reset.windowed = false ∧ windows.tb.window = some (0, 100) ∧ windows.tb.now < 100 ∧ windows.tbRun = false := by decide

theorem witness_StackTemperatures :
    State.reset.pins.clocks = true ∧ (zoneTarget 114 0 = 3) ∧ (State.reset.stack 31).zoneNext ≠ 3 := by decide

theorem test_stack_sample : ((after (.stackTempSample 31 96) State.reset).stack 31).refx = 2 ∧
    ((after (.stackTempSample 31 95) State.reset).stack 31).refx = 1 := by decide

theorem witness_OverwriteEnds :
    let s : State := { State.reset with mem := { State.reset.mem with served := true } }
    s.mem.served = true ∧ s.mem.wiping = true ∧
    ({ s with sec := { s.sec with flash := { s.sec.flash with lcPending := true } } } : State).sec.flash.lcPending = true := by decide

/-! ### Hypotheses that are met: the timebase -/

/-- The timebase runs in tracking with SRC 0, at tick `t`. -/
def tracking (t : Nat) : State :=
  let s := State.reset.setReg wTB 0x190010
  { s with tb := { s.tb with mode := .tracking, tick := t } }

theorem witness_TimebaseStartsAndStops :
    State.reset.running = true ∧ State.reset.tbRun = false ∧ (tracking 0).tbRun = true ∧
    (((tracking 0).setCore 0 { Core.reset with mode := .running, wait := .fenceE 0 }).core 0).wait = .fenceE 0 ∧
    ((tracking 0).setCore 0 { Core.reset with mode := .running, wait := .fenceE 0 }).storesOut 0 = false := by decide

/-- At PERIOD − TOL and one tick before it. -/
theorem witness_PulsesMakeBoundaries :
    (tracking 249975).tbRun = true ∧ (tracking 249975).tb.src = 0 ∧ (tracking 249975).regF wTB 1 0 = 0 ∧
    (tracking 249975).tb.mode = .tracking ∧ (tracking 249975).tb.prov = false ∧
    (tracking 249975).tb.period - (tracking 249975).tbTol ≤ (tracking 249975).tb.tick ∧
    (tracking 249974).tb.tick < (tracking 249974).tb.period - (tracking 249974).tbTol ∧
    ({ (tracking 0).tb with prov := true, mode := .holdover } : Timebase).mode = .holdover := by decide

/-- An early pulse is counted and moves nothing else; one at the edge makes the boundary (R320). -/
theorem test_pulse_edge :
    (after .epochIn (tracking 249974)).tb.tick = 249974 ∧ (after .epochIn (tracking 249974)).tb.epoch = 0 ∧
    (after .epochIn (tracking 249975)).tb.tick = 0 ∧ (after .epochIn (tracking 249975)).tb.epoch = 1 := by decide +kernel

theorem witness_PeriodsMakeBoundaries :
    (tracking 0).tbRun = true ∧ (tracking 0).tb.prov = false ∧ (tracking 0).regF wTB 1 0 = (tracking 0).tb.src ∧
    (let s : State := { (tracking 25) with tb := { (tracking 25).tb with prov := true, hold := 63 } }
     s.tb.prov = true ∧ s.tb.mode = .tracking ∧ s.tb.hold < 64) := by decide

/-- SRC 1 and a held packet that is due. -/
def timed : State :=
  let s := (tracking 249975).setReg wTB 0x190011
  { s with tb := { s.tb with src := 1 }, pel := { s.pel with held := [⟨0, 7, 250000⟩] } }

theorem witness_TimePacketsSetEpoch :
    timed.nextTime = some ⟨0, 7, 250000⟩ ∧ 0 ≤ timed.tb.now ∧ timed.pel.timesUsed.has 7 = false ∧
    ({ timed.pel with timesUsed := [(7, true)] } : Pelvar).timesUsed.has 7 = true ∧ timed.tbRun = true ∧ timed.tb.src = 1 ∧
    timed.regF wTB 1 0 = 1 ∧ timed.tb.mode = .tracking ∧ timed.tb.prov = false ∧ timed.tb.period - timed.tbTol ≤ timed.tb.tick ∧
    (7 : BitVec 48) ≠ timed.tb.epoch + 1 := by decide

/-- Slot 63, armed at the last tick of the period of epoch 0, and once more each epoch. -/
def slotted (rep : Nat) : State :=
  ((tracking 0).setReg (slotAt 63) (BitVec.ofNat 64 (rep * 2 ^ 48))).setReg (slotAt 63 + 8) (BitVec.ofNat 64 (2 ^ 63 + 3 * 2 ^ 22 + 249999))

theorem witness_SlotsFireAndArm :
    (∀ rep ∈ [0, 1], (slotted rep).tbRun = true ∧ (slotted rep).slotArmed 63 = true ∧
      (slotted rep).slotEpoch 63 = (slotted rep).tb.epoch.toNat ∧ (slotted rep).tb.tick ≤ (slotted rep).slotTick 63 ∧
      (slotted rep).slotTick 63 < (slotted rep).tb.period ∧ (slotted rep).slotsFire = true ∧ (slotted rep).tb.prov = false ∧
      (slotted rep).slotRepeat 63 = rep) ∧
    (let s := State.reset.setReg (slotAt 63) 1
     s.running = true ∧ s.slotArmed 63 = false ∧ s.tb.epoch.toNat < s.slotEpoch 63 ∧ slotArgBits 1 = some 0x3FFFFF ∧
     s.slotArg 63 &&& ~~~0x3FFFFF = 0 ∧ slotArgBits 8 = none) := by decide

theorem witness_ReferenceAndPulse :
    State.reset.pins.clocks = true ∧
    (let s : State := { (tracking 0) with tb := { (tracking 0).tb with outUntil := 16 }, pins := { Pins.reset with epochOut := .low } }
     s.pins.epochOut = .low ∧ s.pins.clocks = true ∧ s.tb.now < s.tb.outUntil ∧
     s.tb.tick + (s.tb.outUntil - s.tb.now) < s.tb.period) := by decide

/-! ### Hypotheses that are met: Pelvar -/

/-- Device 5 of a group, Pelvar enabled, port 0 UP with the way to device 6, window 0 open to device 6 for the first page. -/
def linked : State :=
  let s := ((State.reset.setReg wPEL 5).setReg (wPEL + 8) 0x107).setReg (wPEL + 0x200 + 8 * 6) 1
  let s := (s.setReg (wPEL + 0x100) 0xF).setReg (wPEL + 0x108) (BitVec.ofNat 64 (6 * 2 ^ 48 + 6 * 2 ^ 32 + 1))
  { s.setPort 0 { Port.reset with state := .up } with
    mem := { s.mem with served := true }, pel := { (s.setPort 0 { Port.reset with state := .up }).pel with enabled := true } }

/-- A packet from device 6 with its ECRC. -/
def packet6 (kind : BitVec 4) (aux : W32) (addr : W64) (payload : List Byte) : Packet :=
  packetSeal ⟨kind, 0, 1, 0, 7, 5, 6, 0, 0, 0, aux, addr, BitVec.ofNat 32 payload.length, 0, payload⟩

/-- A read of the four sectors of the last line of the page, a write of its last byte, an atomic on its last doubleword. -/
def rd6 : Packet := packet6 1 0xF 0xF80 []
def wr6 : Packet := packet6 3 0x8 0xF80 (bytesOf 16 (2 ^ 127) ++ bytesOf 32 (0xAB * 2 ^ 248))
def atm6 : Packet := packet6 5 0x81 0xFF8 (bytesOf 16 5)

theorem arrives_linked (p : Packet) (k : Nat) (h : p.kind.toNat = k ∧ packetGood p = true ∧ p.dst.toNat = 5) :
    Arrives linked 0 p k := ⟨by decide, by decide, h.1, h.2.1, h.2.2⟩

theorem witness_RequestsAreServed :
    linked.route linked.devnum 6 = some 0 ∧ linked.pel.filter.length < filterMax ∧ linked.mem.finds = [] ∧
    linked.homeWaits rd6 = false ∧ linked.homeWaits wr6 = false ∧ linked.homeWaits atm6 = false ∧ linked.fault.fatal = false ∧
    linked.sliceFull (0xF80 / 128) = false ∧ ({ linked with mem := Mem.reset } : State).homeWaits rd6 = true ∧
    ({ linked.fault with fatal := true } : FaultLog).fatal = true ∧
    Arrives linked 0 rd6 1 ∧ linked.accepts rd6 (0xF80 + (maskSpan 0xF).1) (maskSpan 0xF).2 0 = true ∧
    linked.accepts (packet6 1 0xF 0x1000 []) (0x1000 + (maskSpan 0xF).1) (maskSpan 0xF).2 0 = false ∧
    Arrives linked 0 (packet6 1 0xF 0x1000 []) 1 ∧
    Arrives linked 0 wr6 3 ∧ linked.filtered wr6 = none ∧ byteSpan (wrMask wr6) = (127, 1) ∧
    linked.accepts wr6 (0xF80 + 127) 1 1 = true ∧ linked.frameRetired 0 = false ∧ linked.isLate wr6 = false ∧
    Arrives linked 0 atm6 5 ∧ linked.filtered atm6 = none ∧ atm6.aux.toNat % 128 < 8 ∧ 0xFF8 % (64 / 8) = 0 ∧
    linked.accepts atm6 0xFF8 8 2 = true ∧ linked.poisoned (0xFF8 / 32) = false ∧
    (({ linked with pel := { linked.pel with filter := [⟨6, 7, 0, 0, 0⟩] } } : State).filtered wr6).isSome = true := by
  refine ⟨by decide, by decide, by decide, by decide +kernel, by decide +kernel, by decide +kernel, by decide, by decide, by decide +kernel, by decide,
    arrives_linked _ _ (by decide +kernel), by decide, by decide, arrives_linked _ _ (by decide +kernel),
    arrives_linked _ _ (by decide +kernel), by decide, by decide +kernel, by decide, by decide, by decide,
    arrives_linked _ _ (by decide +kernel), by decide, by decide, by decide, by decide, by decide, by decide⟩

/-- Core 0 waits for the answer to tag 7, a request of this kind to device 6. -/
def asked (kind : BitVec 4) (o : Origin) (e : Option SbEntry) : State :=
  let s := linked.setCore 0 { Core.reset with mode := .running, wait := .remote }
  let q := packetSeal ⟨kind, 0, 1, 0, 7, 6, 5, 0, 0, 0, 0xF, 0xF80, 0, 0, []⟩
  { s with pel := { s.pel with trackers := [(7, some ⟨q, o, [], 0, 0, e, false⟩)] } }

theorem witness_ResponsesFreeTrackers :
    (asked 1 (.load 0) none).pel.rwait = [] ∧ (asked 1 (.load 0) none).pel.phases = [] ∧
    ((asked 1 (.load 0) none).answered (packet6 2 0xF 0 []) [1]).isSome = true ∧
    (asked 1 (.load 0) none).pel.colOut = [] ∧ ((asked 1 (.load 0) none).core 0).pfWait = [] ∧
    ((asked 1 (.load 0) none).core 0).wait = .remote ∧ packetGood (packet6 2 0xF 0 []) = true ∧
    ((asked 1 (.load 0) none).pel.trackers.all fun t => match t.2 with
      | some t => t.entry.isNone
      | none => true) = true ∧
    ((asked 3 (.store 0 3) (some entry0)).answered (packet6 4 0 0 []) [3, 7]).isSome = true ∧ entry0.part = 0 ∧
    packetGood (packet6 4 0 0 []) = true ∧
    ((asked 5 (.atomic 0) none).answered (packet6 6 0 0 (bytesOf 8 0)) [5]).isSome = true ∧
    packetGood (packet6 6 0 0 (bytesOf 8 0)) = true ∧ linked.answered (packet6 2 0xF 0 []) [1] = none := by decide +kernel

theorem witness_OtherPacketsHandled :
    Arrives linked 0 (packet6 7 (1 <<< 19) 0 []) 7 ∧ linked.pelEn = true ∧ linked.fault.fatal = false ∧ linked.phase 0 = none ∧
    (linked.port 0).state = .up ∧
    (let s := linked.setReg (wPEL + 0x30) 0x6000000000000
     let p := packetSeal ⟨8, 0, 1, 0, 0, 0xFFFF, 6, 0, 0, 0, 100, 1, 250000, 0, []⟩
     packetGood p = true ∧ p.src.toNat = s.regF (wPEL + 0x30) 63 48 ∧ p.part.toNat = s.part) ∧
    (let p := packetSeal ⟨1, 0, 2, 0, 7, 6, 5, 0, 0, 0, 0xF, 0, 0, 0, []⟩
     packetGood p = true ∧ p.dst.toNat ≠ linked.devnum ∧ (linked.reg (wPEL + 8)).toNat.testBit 2 = true ∧ 1 < p.hops.toNat ∧
     linked.route p.src.toNat p.dst.toNat = some 0) ∧
    (packet6 1 0xF 0 []).hops.toNat ≤ 1 := by
  refine ⟨arrives_linked _ _ (by decide +kernel), by decide, by decide, by decide, by decide, by decide +kernel, by decide +kernel, by decide⟩

theorem witness_TimersOfPelvar :
    (asked 1 (.load 0) none).tracker 7 ≠ none ∧ (asked 1 (.load 0) none).route (asked 1 (.load 0) none).devnum 6 = some 0 ∧
    ((asked 1 (.load 0) none).core 0).wait = .remote ∧ 0 < (asked 1 (.load 0) none).timeout ∧ (asked 1 (.load 0) none).tb.now = 0 ∧
    (asked 1 (.load 0) none).pel.rwait = [] ∧ (asked 1 (.load 0) none).pel.phases = [] ∧ (asked 1 (.load 0) none).pel.colOut = [] ∧
    (let s : State := { (asked 1 (.load 0) none) with tb := { Timebase.reset with now := 2000000000 } }
     0 + s.timeout ≤ s.tb.now ∧ 0 + 2 * s.timeout ≤ s.tb.now) ∧
    (let s : State := { linked with pel := { linked.pel with filter := [⟨6, 7, 0, 0, 0⟩] } }
     (s.pel.filter.find? fun r => r.src.toNat == 6 && r.tag.toNat == 7).isSome = true ∧ s.pel.filtWait = []) := by decide +kernel

theorem witness_LinksAndControl :
    (linked.port 0).state = .up ∧ 4096 % 4096 = (linked.port 0).seq ∧ (linked.port 0).stream = [] ∧ (linked.port 0).again < 8 ∧
    8 ≤ ({ Port.reset with again := 8 } : Port).again ∧ linked.running = true ∧ linked.mayTrain = true ∧
    linked.linkSpent (linked.port 0) = false ∧ linked.linkSpent { Port.reset with outAgain := 9 } = true ∧
    ({ linked with sec := { linked.sec with stage := 1 } } : State).mayTrain = false ∧
    ({ Port.reset with state := .training } : Port).state = .training := by decide

/-- A phase of one rank on this device whose sheaf is reached, and one with its result. -/
def phase0 : Phase :=
  { id := 3, src := 0x1000, dst := 0x2000, rmap := [5], count := 1, fmt := 2, op := 0, all := false, wsheaf := 4095, wcount := 0,
    ssheaf := 9, sinc := 1, stride := 0, deadline := 1, start := 0, read := false, nodes := [], result := none, outbox := [], passed := false }

def phased (p : Phase) : State := { linked with pel := { linked.pel with phases := [p] } }

theorem witness_CollectivePhases :
    (phased phase0).phase 3 = some phase0 ∧ phase0.wcount ≤ ((phased phase0).sheaf 4095).toNat ∧
    (∀ r ∈ phase0.rmap, r = (phased phase0).devnum) ∧ (phased phase0).devnum ≠ 0xFFFF ∧ visible 0x1000 4 = true ∧
    (phased phase0).spanPoisoned 0x1000 4 = false ∧
    (let p : Phase := { phase0 with read := true, result := some [.fin false 3 0] }
     p.done (phased p).devnum = true ∧ (p.all || p.dev 0 == (phased p).devnum) = true ∧
     (∀ v, v < Config.versions → ((phased p).ver v).undecided = false) ∧ p.dst + (resultBytes p [.fin false 3 0]).length ≤ Config.memTop) ∧
    ({ phase0 with deadline := 0 } : Phase).deadline ≤ ((phased phase0).tb.epoch - phase0.start).toNat := by decide


/-! ### Signatures made outside the model -/

/-- The modulus of a key pair made outside the model. -/
def keyN : Nat :=
  [(94, 0xa8d140911ec789653e5b6a87b88aa218b08650b19a69365788437dc645de391be6d9cb73c4464dce2199d7d44d6b93),
   (94, 0x698ce515be3a34bc569be2c79bd74cf50082201f4f13c434c4cf00bff66c04135d89f117925690443ee03ddefe8645),
   (94, 0x247f601ab3cf78192c4d1774671141fe55d08cd069119a7eacbef6d27b69077fbf80b97056bdaa7133cdfabbd4701f),
   (94, 0xe1178ae12dc95a5bf17b2a71fdd27b5d288be22692bb343c9b1162145b88b29b9a1445f14063b34c2b9ba3d02bb1b6),
   (94, 0xff08ec3acc34f5703d09d373aa6105719d3d8ce8c4ceec8b7af69c68a7be92f5b8fff21f20a3421b0b0f3c1170fbb0),
   (94, 0x7fc6736ddde89d5fe2e43f1b56e6d4120bdc07968e786fbac442e4b7ee0ce03e80fedc294cf42963587a8c4bfa4de4),
   (94, 0x8e5de005cf77275014aa436088ea3a173436d56752511316c6ca08d513eb9c2928c90c3eecfe54f3dc29e1356b4af3),
   (94, 0x5ebb1d4e56e212928a6a5645ce94e73fbe7f8b2072a88e6d8df049e5a679cd8d8acf0169b7a92b02602665b7cc368b),
   (94, 0x411b5f9b0956776b8f004ad985d7293ca6f1c6929f7d6f4487998c88c598c11641d6bdae01c0c7fc383955250a4d33),
   (94, 0x761e8c9bef179704213c1fdcc37cadac86b3496b97d69636ccf38d618e54affab6d9cd54825544a57da9022eef7b47),
   (84, 0x367e32b05e0424a549075d67e8c462ba2d97e1d45b82896f45d900b814d3e99a8c86aa4e44255de95e8b)].foldl (fun n p => n * 16 ^ p.1 + p.2) 0

/-- Its PSS signature, salt 0 to 63, over 8 zeros, the states 2 and 3, and 8 zeros (R459). -/
def sigLc : Nat :=
  [(94, 0x62fa48bd42a1dbdb9cfcccb6630a165beaed43c1cee0bf67c55a129babc84e3c2aa6fcd5ad9d5266f6f8c3157e3dfb),
   (94, 0xeda7bdf807cd701793ad9b02f47478b1787e17a87d26f8772f632a7bf872f913d2c1f0050593901d9f410574143510),
   (94, 0x9df97595f3072336caf835e0cfd54e931d4876079f4b5de054771c5a6e41ece97e698680d865c76ce8bcc176708193),
   (94, 0x78c904a2ccd008471aba4350b151b3133c7047e25e2294c7aa4d940a03fc9d4b23f12c66ad37639b3335aaa2342153),
   (94, 0x525ee62f04222727f6e01d8632c5d5591f536440ee4b01e8431dfbe8c8a772e02ba8f5e77d7ba3ab572ea0e511162d),
   (94, 0x0a5af57377f2472f1d88fc8894e183fa7e462244f83503a485a78e61da072f2da4d50cf6460e07168fd059e866defa),
   (94, 0x7a12879a2628dfb48a4bd7cbd6ea9a46d5f60b0d27ec417dcb2c7a44910367d42b9aa911272dffc5e29a993bc654df),
   (94, 0x9f0ce9a18a318f9bcc4f211783da904cf8f51db47bd398a8dcc8959a1cb480f3a9e103640bca4a4e3c5ff33eab9c2a),
   (94, 0x863eb6ca4685e317e349bd8d38a7fefe5fa077356949f9041486e6fb7487dc9c91989658f614f58953b6656bd194ca),
   (94, 0xf0ede3cf4e3659f2cf2c5c8c6a5b20a1e1ae6d9f3ebfab4b545988b1218069b84e795d79a9d339161f00704d19246d),
   (84, 0x7a9c8f4cdca2bb69d6d714a913918078db724652872920c3a9bc3f4fc790ecfd517688b85f911c6411f1)].foldl (fun n p => n * 16 ^ p.1 + p.2) 0

/-- Its PSS signature over bytes 0 to 535 of the image below and its body (R443). -/
def sigImg : Nat :=
  [(94, 0x933542e1d47ec0374333c3760202c0a2bb3e1d92f78d819da09e8b22addbaffa4ce32a278a85c764fd9a798deeb40f),
   (94, 0xf87dafbd571ff29fdf8adfa584bf0d1f07e9b66f8ba4c0d77cccbd456e56e00214458bea0ce0a51b62c4cbcc5a8f0e),
   (94, 0xfeaa2f4276a0a770f9e8fc0db1cffdbc398d820c39a166024fdd9e19aa01e4a4a2a3510fad6a3406bd7f552ca88e18),
   (94, 0x6bb27bdaba041543ffd27ab213d89b7ea09f8fc3b36a9c9e2cde9ae4685db689b9f81d1c13d01f4b2877c0e101110c),
   (94, 0x61312dc7592c48a28b6a2f1946b624aa0d8b54b7d511fd3e8ca67ca60f2b6b1df0b403b42b5e9c99e490186c52feaf),
   (94, 0xd50f7fb5975e64bedd9df0ed3491bee65adcfa18a505cc28cc94dd774529a81164e447a6bf9f1761bef01e37437b60),
   (94, 0xbac901b6588d866f7e8a8a3e5d7c14e00f4b11631749fec4bff0addfd2f8b3729356b75abeb5751c2020abfde3a819),
   (94, 0x721016c63a44093040bac96525349fa77f1cf3d3aaa07b7eab87a49b1b4bdb530464de9f3c4852fdde209178f26496),
   (94, 0xa2f16b3026281e5f6854c66dfa9a9cbcbd9feb164a73941aa48464a00be8139ef4a9630374835e28e8656a3f9b943d),
   (94, 0x07c1f7519404661897483f26427b0a067f2bdc226a0c7060503fe06f2e4cc2ddb6f69d29ae2327cd4dbb065b8ea148),
   (84, 0x78553fe515b75a685d0bd5e3480edfae01f05e69202b25be3bc18ea63dd01ed39522d8a8102fff3ae393)].foldl (fun n p => n * 16 ^ p.1 + p.2) 0

/-- LC_SET from DEPLOYED to MAINTENANCE, by the owner, with the nonce 0 (R459). -/
def lcArgs : List Byte :=
  [3, 0, 0, 0] ++ bytesOf 4 528 ++ bytesOf 8 1 ++ bytesOf 8 0 ++ bytesBE 512 sigLc

theorem test_pss : pssVerify (bytesBE 512 keyN) (bytesBE 512 sigLc) (bytesOf 8 0 ++ [2, 3] ++ bytesOf 8 0) = true := by decide +kernel

/-- Byte `i` of an image of version 0 with SVN 0 and a body of one byte (R443). -/
def imgByte (i : Nat) : Byte :=
  BitVec.ofNat 8 (if i < 24 then (0x4C475046 + 4096 * 2 ^ 32 + 2 ^ 64) >>> (8 * i)
    else if i < 536 then keyN >>> (8 * (535 - i))
    else if i < 1048 then sigImg >>> (8 * (1047 - i))
    else if i < 4096 then 0 else 0x5A)

theorem get_indexed {α : Type} (d : α) (f : Nat → α) (n : Nat) : ∀ s a,
    Tab.get d ((List.range' s n).map fun i => (i, f i)) a = if s ≤ a ∧ a < s + n then f a else d := by
  induction n with
  | zero => intro s a; rw [if_neg (by omega)]; rfl
  | succ n ih =>
    intro s a
    simp only [List.range'_succ, List.map_cons, Tab.get, ih]
    split
    · subst_vars; simp
    · by_cases h : s + 1 ≤ a ∧ a < s + 1 + n
      · rw [if_pos h, if_pos (by omega)]
      · rw [if_neg h, if_neg (by omega)]

/-- The flash holds that image, and the fuses the digest of its key. -/
def imaged : State :=
  { State.reset with sec := { State.reset.sec with
      flash := { State.reset.sec.flash with image := (List.range' 0 4097).map fun i => (i, imgByte i) },
      fuses := { State.reset.sec.fuses with keyHash := sha512 ((List.range 512).map fun i => imgByte (24 + i)) } } }

theorem imageBytes_imaged (o n : Nat) (h : o + n ≤ 4097) : imaged.imageBytes o n = (List.range n).map fun i => imgByte (o + i) := by
  unfold State.imageBytes imaged
  apply List.map_congr_left
  intro i hi
  have hi := List.mem_range.mp hi
  show Tab.get 0xFF ((List.range' 0 4097).map fun i => (i, imgByte i)) (o + i) = _
  rw [get_indexed, if_pos (by omega)]

theorem headerOk_imaged : imaged.headerOk = true := by
  unfold State.headerOk State.imageWord
  rw [imageBytes_imaged 0 4 (by decide), imageBytes_imaged 4 4 (by decide), imageBytes_imaged 8 4 (by decide),
    imageBytes_imaged 18 6 (by decide), imageBytes_imaged 1048 3048 (by decide)]
  decide +kernel

theorem bodyLength_imaged : imaged.imageWord 8 4 = 1 := by
  unfold State.imageWord
  rw [imageBytes_imaged 8 4 (by decide)]
  decide +kernel

theorem signature_imaged : pssVerify ((List.range 512).map fun i => imgByte (24 + i)) ((List.range 512).map fun i => imgByte (536 + i))
    (((List.range 536).map fun i => imgByte (0 + i)) ++ (List.range 1).map fun i => imgByte (4096 + i)) = true := by decide +kernel

/-- R444 accepts it. -/
theorem test_image_accepted : imaged.imageFault = 0 := by
  unfold State.imageFault State.imageSigned
  rw [headerOk_imaged, bodyLength_imaged, imageBytes_imaged 24 512 (by decide), imageBytes_imaged 536 512 (by decide),
    imageBytes_imaged 0 536 (by decide), imageBytes_imaged 4096 1 (by decide), signature_imaged]
  simp [imaged, State.reset, Security.reset]

/-! ### Hypotheses that are met: mailboxes and commands -/

/-- DEPLOYED, serving, memory served, no overwrite. -/
def serving0 : State :=
  { State.reset with
    sec := { State.reset.sec with stage := 3, flash := { State.reset.sec.flash with lcState := 2 } },
    mem := { State.reset.mem with served := true, wiping := false },
    ctl := { State.reset.ctl with configured := true } }

/-- Mailbox 31 holds this command, accepted. -/
def holds (s : State) (code : Nat) (args : List Byte) : State :=
  s.setMb 31 { Mailbox.reset with state := .accepted, taken := some ⟨code, args.length, 9, args, 0⟩ }

theorem due_of (s : State) (code : Nat) (args : List Byte)
    (h : (holds s code args).serving = true ∧ ((holds s code args).mb 31).state = .accepted ∧
      ((holds s code args).mb 31).taken = some ⟨code, args.length, 9, args, 0⟩ ∧ ((holds s code args).mb 31).begun = false ∧
      (holds s code args).checkCmd 31 ⟨code, args.length, 9, args, 0⟩ = stOk) :
    Due (holds s code args) 31 code ⟨code, args.length, 9, args, 0⟩ :=
  ⟨⟨h.1, h.2.1, h.2.2.1, rfl, h.2.2.2.1⟩, h.2.2.2.2⟩

theorem witness_MailboxesServeCommands :
    serving0.hostServed = true ∧ serving0.serving = true ∧ (serving0.mb 31).state = .free ∧
    ((holds serving0 0x01 []).mb 31).state = .accepted ∧
    (let s : State := { serving0 with ctl := { serving0.ctl with posted := [31] } }
     s.ctl.posted = 31 :: [] ∧ s.checkCmd 31 ((s.mb 31).copyCmd 0) ≠ stOk) ∧
    ({ Mailbox.reset with ready := some (stOk, []) } : Mailbox).ready = some (stOk, []) ∧
    (holds serving0 0x10 []).failsFatal 31 = false ∧
    ({ holds serving0 0x10 [] with fault := { FaultLog.reset with fatal := true } } : State).failsFatal 31 = true := by decide

/-- A command of 8 bytes posted in mailbox 31 is taken in order, journalled under number 0 and accepted (R384, R399). -/
theorem test_mailbox_accept :
    let s := serving0.setMb 31 { Mailbox.reset with state := .posted, cmd := 0x80001 }
    let t := after .mailboxAccept { s with ctl := { s.ctl with posted := [31] } }
    (t.mb 31).state = .accepted ∧ t.reg wMBX = 1 ∧ (Tab.get none t.ctl.journal 0).isSome = true := by decide

/-- The last sheaf; a version that waits for its verdict. -/
def undecided : State := serving0.setVer 15 { Version.reset with state := .opened, guardSheaf := 4095, guardCount := 3 }

theorem witness_SheafAndVerdictCommands :
    Due (holds serving0 0x11 (bytesOf 4 4095 ++ bytesOf 4 3)) 31 0x11 ⟨0x11, 8, 9, bytesOf 4 4095 ++ bytesOf 4 3, 0⟩ ∧
    NoneUndecided (holds serving0 0x11 (bytesOf 4 4095 ++ bytesOf 4 3)) ∧
    (undecided.ver 15).undecided = true ∧ (undecided.ver 15).finite = false ∧ (undecided.ver 15).guardSheaf = 4095 ∧
    (undecided.ver 15).guardCount ≤ 3 ∧
    Due (holds serving0 0x12 (bytesOf 4 4095 ++ bytesOf 4 3)) 31 0x12 ⟨0x12, 8, 9, bytesOf 4 4095 ++ bytesOf 4 3, 0⟩ ∧
    Due (holds serving0 0x13 (bytesOf 2 3586 ++ bytesOf 2 510)) 31 0x13 ⟨0x13, 4, 9, bytesOf 2 3586 ++ bytesOf 2 510, 0⟩ ∧
    Due (holds undecided 0x14 [15, 1]) 31 0x14 ⟨0x14, 2, 9, [15, 1], 0⟩ ∧
    Due (holds undecided 0x14 [15, 2]) 31 0x14 ⟨0x14, 2, 9, [15, 2], 0⟩ ∧
    (∀ u, u < Config.versions → u ≠ 15 → (undecided.ver u).undecided = false) ∧ StacksQuiet undecided :=
  ⟨due_of _ _ (bytesOf 4 4095 ++ bytesOf 4 3) (by decide), by unfold NoneUndecided; decide, by decide, by decide, by decide, by decide,
   due_of _ _ (bytesOf 4 4095 ++ bytesOf 4 3) (by decide), due_of _ _ (bytesOf 2 3586 ++ bytesOf 2 510) (by decide),
   due_of _ _ [15, 1] (by decide), due_of _ _ [15, 2] (by decide), by decide, rfl, rfl⟩

/-- SHEAF_ADD saturates (R225). -/
theorem test_sheaf_add :
    let t := after (.sheafAdd 31) (holds (serving0.setSheaf 7 0xFFFFFFFE) 0x11 (bytesOf 4 7 ++ bytesOf 4 5))
    t.sheaf 7 = 0xFFFFFFFF ∧ (t.mb 31).state = .done := by decide

theorem witness_ImmediateCommands :
    Due (holds serving0 0x01 (bytesOf 8 1)) 31 0x01 ⟨0x01, 8, 9, bytesOf 8 1, 0⟩ ∧
    Due (holds serving0 0x15 (bytesOf 8 15 ++ bytesOf 8 6)) 31 0x15 ⟨0x15, 16, 9, bytesOf 8 15 ++ bytesOf 8 6, 0⟩ ∧
    Due (holds serving0 0x16 (bytesOf 12 (2 ^ 95) ++ bytesOf 4 31)) 31 0x16 ⟨0x16, 16, 9, bytesOf 12 (2 ^ 95) ++ bytesOf 4 31, 0⟩ ∧
    Due (holds serving0 0x20 (bytesOf 4 25000 ++ bytesOf 4 1)) 31 0x20 ⟨0x20, 8, 9, bytesOf 4 25000 ++ bytesOf 4 1, 0⟩ ∧
    Due (holds serving0 0x22 (bytesOf 2 0)) 31 0x22 ⟨0x22, 2, 9, bytesOf 2 0, 0⟩ ∧
    Due (holds serving0 0x23 (bytesOf 4 0)) 31 0x23 ⟨0x23, 4, 9, bytesOf 4 0, 0⟩ ∧
    Due (holds serving0 0x31 (bytesOf 4 (95 * 65536))) 31 0x31 ⟨0x31, 4, 9, bytesOf 4 (95 * 65536), 0⟩ ∧
    Due (holds serving0 0x34 (bytesOf 8 (14344 + 2040 * 2 ^ 32))) 31 0x34 ⟨0x34, 8, 9, bytesOf 8 (14344 + 2040 * 2 ^ 32), 0⟩ ∧
    Due (holds serving0 0x42 (bytesOf 4 1 ++ [0])) 31 0x42 ⟨0x42, 5, 9, bytesOf 4 1 ++ [0], 0⟩ ∧
    serving0.sec.flash.cal = none :=
  ⟨due_of _ _ (bytesOf 8 1) (by decide), due_of _ _ (bytesOf 8 15 ++ bytesOf 8 6) (by decide),
   due_of _ _ (bytesOf 12 (2 ^ 95) ++ bytesOf 4 31) (by decide), due_of _ _ (bytesOf 4 25000 ++ bytesOf 4 1) (by decide),
   due_of _ _ (bytesOf 2 0) (by decide), due_of _ _ (bytesOf 4 0) (by decide), due_of _ _ (bytesOf 4 (95 * 65536)) (by decide),
   due_of _ _ (bytesOf 8 (14344 + 2040 * 2 ^ 32)) (by decide), due_of _ _ (bytesOf 4 1 ++ [0]) (by decide), rfl⟩

/-- The same state in MAINTENANCE, with a calibration set. -/
def maint : State := { serving0 with sec := { serving0.sec with flash := { serving0.sec.flash with
  lcState := 3, cal := some (List.replicate 16384 0) } } }

theorem witness_LongCommands :
    Due (holds serving0 0x21 (bytesOf 2 743 ++ bytesOf 2 1 ++ bytesOf 4 1)) 31 0x21 ⟨0x21, 8, 9, bytesOf 2 743 ++ bytesOf 2 1 ++ bytesOf 4 1, 0⟩ ∧
    Due (holds maint 0x32 (bytesOf 4 0xFFFFFFFF)) 31 0x32 ⟨0x32, 4, 9, bytesOf 4 0xFFFFFFFF, 0⟩ ∧
    Due (holds maint 0x33 []) 31 0x33 ⟨0x33, 0, 9, [], 0⟩ ∧
    Due (holds maint 0x35 (bytesOf 4 0x3FBF ++ bytesOf 4 1 ++ [7])) 31 0x35 ⟨0x35, 9, 9, bytesOf 4 0x3FBF ++ bytesOf 4 1 ++ [7], 0⟩ ∧
    Due (holds serving0 0x10 (bytesOf 8 64 ++ bytesOf 8 1048576)) 31 0x10 ⟨0x10, 16, 9, bytesOf 8 64 ++ bytesOf 8 1048576, 0⟩ ∧
    Due (holds serving0 0x30 (bytesOf 4 (767 * 65536))) 31 0x30 ⟨0x30, 4, 9, bytesOf 4 (767 * 65536), 0⟩ ∧
    Due (holds serving0 0x30 (bytesOf 4 (1 + 95 * 65536))) 31 0x30 ⟨0x30, 4, 9, bytesOf 4 (1 + 95 * 65536), 0⟩ ∧
    (serving0.core 95).active = false ∧ (serving0.eng 767).state = .service :=
  ⟨due_of _ _ (bytesOf 2 743 ++ bytesOf 2 1 ++ bytesOf 4 1) (by decide), due_of _ _ (bytesOf 4 0xFFFFFFFF) (by decide),
   due_of _ _ [] (by decide), due_of _ _ (bytesOf 4 0x3FBF ++ bytesOf 4 1 ++ [7]) (by decide),
   due_of _ _ (bytesOf 8 64 ++ bytesOf 8 1048576) (by decide), due_of _ _ (bytesOf 4 (767 * 65536)) (by decide),
   due_of _ _ (bytesOf 4 (1 + 95 * 65536)) (by decide), by decide, by decide⟩

theorem test_calibration_body : (List.replicate 16256 (0 : Byte)).length = 16256 := List.length_replicate ..

/-- SHEAF_SET while a task is placed is refused (R387). -/
theorem witness_ChecksDecideCommands :
    let s := holds { serving0 with live := [(0, 0)] } 0x12 (bytesOf 4 0 ++ bytesOf 4 3)
    Waits s 31 0x12 ⟨0x12, 8, 9, bytesOf 4 0 ++ bytesOf 4 3, 0⟩ ∧ s.checkCmd 31 ⟨0x12, 8, 9, bytesOf 4 0 ++ bytesOf 4 3, 0⟩ ≠ stOk :=
  ⟨⟨by decide, by decide, by decide, rfl, by decide⟩, by decide⟩

/-! ### Hypotheses that are met: resets, life cycle, recovery -/

/-- DEPLOYED with the owner key of `keyN`. -/
def owned : State := { serving0 with sec := { serving0.sec with flash := { serving0.sec.flash with ownerKey := some (bytesBE 512 keyN) } } }

def recovering (c : Cmd) : State :=
  let s : State := { State.reset with sec := { State.reset.sec with stage := 1 } }
  s.setMb 0 { Mailbox.reset with state := .accepted, taken := some c }

theorem witness_LifeCycleAndRecovery :
    Due (holds serving0 0x40 []) 31 0x40 ⟨0x40, 0, 9, [], 0⟩ ∧
    Due (holds owned 0x41 lcArgs) 31 0x41 ⟨0x41, lcArgs.length, 9, lcArgs, 0⟩ ∧
    (⟨0x41, 536, 9, lcArgs, 0⟩ : Cmd).num 16 8 = owned.sec.nonce.toNat ∧
    (holds owned 0x41 lcArgs).lcKey ⟨0x41, 536, 9, lcArgs, 0⟩ = bytesBE 512 keyN ∧
    (holds owned 0x41 lcArgs).lcMessage ⟨0x41, 536, 9, lcArgs, 0⟩ = bytesOf 8 0 ++ [2, 3] ++ bytesOf 8 0 ∧
    (lcArgs.drop 24).take 512 = bytesBE 512 sigLc ∧
    (recovering ⟨0x50, 9, 0, bytesOf 8 (2 ^ 32) ++ [1], 0⟩).romCmd 0x50 = some ⟨0x50, 9, 0, bytesOf 8 (2 ^ 32) ++ [1], 0⟩ ∧
    (recovering ⟨0x51, 0, 0, [], 0⟩).romCmd 0x51 = some ⟨0x51, 0, 0, [], 0⟩ ∧
    (let s := recovering ⟨0x51, 0, 0, [], 0⟩
     ({ s with sec := { s.sec with imageDue := true } } : State).inRecovery = true) :=
  ⟨due_of _ _ [] (by decide), due_of _ _ lcArgs (by decide +kernel), by decide +kernel, by decide +kernel, by decide +kernel,
   by decide +kernel, by decide, by decide, by decide⟩

theorem witness_ResetsDevice : ResetsDevice State.reset .coldReset ∧ ResetsDevice State.reset .warmReset :=
  ⟨.inl ⟨rfl, by decide⟩, .inr (.inl ⟨rfl, by decide⟩)⟩

theorem witness_SelftestsAndCoreResets :
    (let s := serving0.setEng 767 { Engine.reset with state := .testing, why := .command 31 }
     s.serving = true ∧ (s.eng 767).state = .testing ∧ (s.eng 767).idle = true ∧ (s.eng 767).why = .command 31 ∧
     (s.eng 767).lower = false ∧ (s.eng 767).upper = false) ∧
    (let s : State := { serving0 with ctl := { serving0.ctl with coreTests := [⟨95, some 31, true⟩] } }
     s.ctl.coreTests.find? (fun t => t.core = 95 ∧ t.running) = some ⟨95, some 31, true⟩ ∧ s.testedWith 95 = []) ∧
    (let s := serving0.setCore 95 { Core.reset with resetting := true }
     (s.core 95).resetting = true ∧ s.bufferOut 95 = false) ∧
    (serving0.setCore 95 { Core.reset with resetting := true, sb := [entry0] }).bufferOut 95 = true ∧
    (serving0.core 95).mode = .held ∧ (serving0.core 95).retired = false ∧ serving0.fault.fatal = false := by decide

/-! ### Hypotheses that are met: lists and copies -/

/-- A list at 0x4000 of one record, which has been read. -/
def job0 : ListJob := ⟨31, 0x4000, 1, 0, 0, true, .none, 1, false⟩

/-- That list stands at a record of these bytes. -/
def listed (r : List Byte) : State :=
  ({ serving0 with ctl := { serving0.ctl with lists := [job0] } } : State).putBytes 0x4000 r

theorem atRecord_of (kind : Nat) (r : List Byte)
    (h : (listed r).ctl.lists = [job0] ∧ (listed r).atRecord job0 = true ∧ (listed r).spanPoisoned 0x4000 64 = false ∧
      (listed r).bytesAt 0x4000 64 = r ∧ recordBad r = false ∧ rnum r 0 1 = kind) :
    AtRecord (listed r) job0 [] kind r := ⟨h.1, h.2.1, rfl, by decide, h.2.2.1, h.2.2.2.1, h.2.2.2.2.1, h.2.2.2.2.2⟩

/-- A record of this KIND with these bytes from byte 8. -/
def rec (kind : Nat) (b : List Byte) : List Byte := bytesOf 8 kind ++ b ++ List.replicate (56 - b.length) 0

theorem witness_RecordsAreChecked :
    (Instr.mark, 9) ∈ recordRows ∧ (listed (rec 9 [])).ctl.lists = [job0] ∧ (listed (rec 9 [])).atRecord job0 = true ∧
    job0.seen = true ∧ visible 0x4000 64 = true ∧ visible Config.memTop 64 = false ∧
    (let s : State := { listed (rec 9 []) with ctl := { (listed (rec 9 [])).ctl with lists := [{ job0 with seen := false }] } }
     s.atRecord { job0 with seen := false } = true ∧ s.mem.finds = [] ∧ s.mem.copying = []) ∧ serving0.ctl.stalled = false ∧
    State.reset.atRecord job0 = false ∧
    recordBad ((listed (rec 10 [])).bytesAt 0x4000 64) = true ∧ rnum ((listed (rec 6 [])).bytesAt 0x4000 64) 0 1 ≠ 9 := by decide

theorem witness_WaitingRecords :
    AtRecord (listed (rec 2 (bytesOf 4 4095 ++ bytesOf 4 1 ++ bytesOf 8 2))) job0 [] 2
      (rec 2 (bytesOf 4 4095 ++ bytesOf 4 1 ++ bytesOf 8 2)) ∧
    AtRecord (listed (rec 3 (bytesOf 6 1))) job0 [] 3 (rec 3 (bytesOf 6 1)) ∧
    AtRecord (listed (rec 6 [])) job0 [] 6 (rec 6 []) ∧
    AtRecord (listed (rec 9 (bytesOf 8 5))) job0 [] 9 (rec 9 (bytesOf 8 5)) ∧
    job0.waited < 2 ∧ 1 ≤ job0.waited ∧ job0.stopped = false ∧ (tracking 0).tb.mode ≠ .stopped ∧
    (listed (rec 6 [])).live = [] ∧ (∀ c ∈ (listed (rec 6 [])).ctl.copies, c.ckpt.isSome = true) ∧ (listed (rec 9 [])).fenceMet = true :=
  ⟨atRecord_of _ _ (by decide +kernel), atRecord_of _ _ (by decide +kernel), atRecord_of _ _ (by decide +kernel),
   atRecord_of _ _ (by decide +kernel), by decide, by decide, by decide, by decide, by decide, by decide, by decide⟩

/-- A barrier that its sheaf meets is done, and the list leaves with OK (R389). -/
theorem test_barrier :
    let t := after .barrier ((listed (rec 2 (bytesOf 4 4095 ++ bytesOf 4 1 ++ bytesOf 8 2))).setSheaf 4095 1)
    t.ctl.lists = [] ∧ ((t.mb 31).ready.map Prod.fst) = some stOk := by decide +kernel

/-- A descriptor at 0x5000 without waits or signals, for any core and queue. -/
def descBytes : List Byte :=
  bytesOf 28 0 ++ [0xFF, 0xFF, 0, 0] ++ (List.replicate 8 (bytesOf 8 0xFFFF)).flatten ++ List.replicate 32 0

theorem witness_TaskRecordsPlaceTasks :
    let s := (listed (rec 1 (bytesOf 8 0x5000))).putBytes 0x5000 descBytes
    AtRecord (listed (rec 1 (bytesOf 8 0x5000))) job0 [] 1 (rec 1 (bytesOf 8 0x5000)) ∧
    StacksQuiet s ∧ s.sliceFull (0x5000 / 128) = false ∧ (s.llcLine (0x5000 / 128)).poison = 0 ∧
    0x5000 % 128 = 0 ∧ visible 0x5000 128 = true ∧ s.spanPoisoned 0x5000 128 = false ∧ descOk (s.bytesAt 0x5000 128) = true ∧
    (parseDesc 0x5000 (s.bytesAt 0x5000 128)).spec = false ∧ (parseDesc 0x5000 (s.bytesAt 0x5000 128)).watch = false ∧
    descOk (List.replicate 128 0xFF) = false ∧ 0x5001 % 128 ≠ 0 :=
  ⟨atRecord_of _ _ (by decide +kernel), ⟨rfl, rfl⟩, by decide, by decide, by decide, by decide, by decide +kernel, by decide +kernel,
   by decide +kernel, by decide +kernel, by decide +kernel, by decide⟩

theorem witness_VersionRecords :
    AtRecord (listed (rec 4 ([15] ++ bytesOf 7 0 ++ bytesOf 2 0xFFFF))) job0 [] 4
      (rec 4 ([15] ++ bytesOf 7 0 ++ bytesOf 2 0xFFFF)) ∧
    AtRecord (listed (rec 5 [15, 2])) job0 [] 5 (rec 5 [15, 2]) ∧
    ((listed (rec 4 [])).ver 15).state = .free ∧ NoneUndecided (listed (rec 4 [])) ∧ Config.sheaves ≤ 0xFFFF :=
  ⟨atRecord_of _ _ (by decide +kernel), atRecord_of _ _ (by decide +kernel), by decide, by unfold NoneUndecided; decide, by decide⟩

theorem witness_CopiesStart :
    AtRecord (listed (rec 7 (bytesOf 8 0x6000 ++ bytesOf 8 0x7000 ++ bytesOf 8 0x1000 ++ bytesOf 2 0xFFFF))) job0 [] 7
      (rec 7 (bytesOf 8 0x6000 ++ bytesOf 8 0x7000 ++ bytesOf 8 0x1000 ++ bytesOf 2 0xFFFF)) ∧
    State.reset.copyBad 0x6000 0x7000 0x1000 = false ∧ State.reset.copyBad 0x6000 0x6FFF 0x1000 = true ∧
    State.reset.copyDst 0x7000 = .here 0x7000 ∧
    AtRecord (listed (rec 8 (bytesOf 8 0x7000 ++ bytesOf 8 8 ++ bytesOf 8 1 ++ bytesOf 2 0xFFFF))) job0 [] 8
      (rec 8 (bytesOf 8 0x7000 ++ bytesOf 8 8 ++ bytesOf 8 1 ++ bytesOf 2 0xFFFF)) ∧
    fillBad 0x7000 8 = false ∧ fillBad 0x7004 8 = true ∧
    (let c : Ckpt := ⟨3, 0x6000, 0x7000, 8, 4095, 0, 0xFFFF, none⟩
     [c] = [] ++ c :: [] ∧ c.idx = 3 ∧ c.copy = none ∧ c.wcount ≤ (State.reset.sheaf 4095).toNat ∧
     (State.reset.sheaf 4095).toNat < ({ c with wcount := 1 } : Ckpt).wcount) :=
  ⟨atRecord_of _ _ (by decide +kernel), by decide, by decide, rfl, atRecord_of _ _ (by decide +kernel), by decide, by decide, by decide⟩

def copying : CopyJob := ⟨4, 0x6000, 0x7000, 8, none, 4095, 1, none, false, 0, 0⟩

def copyState : State := { serving0 with ctl := { serving0.ctl with copies := [copying, { copying with id := 5, ckpt := some 2 }] } }

theorem witness_CopiesComplete :
    copyState.copyJob 4 = some copying ∧ copying.bad = false ∧ NoneUndecided copyState ∧ copyState.copyOut 4 = false ∧
    copyState.copyDst copying.dst = .here 0x7000 ∧ copying.src + copying.len ≤ 0x7000 ∧
    copyState.spanPoisoned copying.src copying.len = false ∧ (copyState.ctl.copies.find? fun c => c.ckpt = some 2 ∧ !copyState.copyOut c.id).map CopyJob.id = some 5 ∧ StacksQuiet copyState ∧
    copyState.ctl.stalled = false ∧ (copyState.regF (wMBX + 0x08) 31 0 + 2 ^ 32 - copyState.regF (wMBX + 0x10) 31 0) % 2 ^ 32 ≠ 2048 :=
  ⟨by decide, by decide, by unfold NoneUndecided; decide, by decide, rfl, by decide, by decide, by decide, ⟨rfl, rfl⟩, by decide, by decide⟩

/-! ### Hypotheses that are met: host, management, boot, power -/

theorem witness_HostReachesMemory :
    serving0.hostServed = true ∧ serving0.memServed = true ∧ visible (serving0.bar2Addr 0xFFFFFFFFF) 1 = true ∧
    State.reset.memServed = false ∧ visible Config.memTop 1 = false ∧
    serving0.mem.finds = [] ∧ serving0.mem.copying = [] ∧ State.reset.hostServed = false ∧
    ({ Control.reset with msixOwed1 := true } : Control).msixOwed1 = true ∧ State.reset.tb.now + 1 < 1 + 500 ∧
    0 + 500 ≤ ({ Timebase.reset with now := 499 } : Timebase).now + 1 := by decide

theorem witness_RegisterAccesses :
    serving0.hostServed = true ∧ State.reset.hostServed = false ∧ State.reset.linkUp = true ∧ accessOk 4 8 = false ∧ accessOk 0x20000 8 = true ∧ 0x7F8 % 8 = 0 ∧ 0x1F7F8 < 0x20000 ∧
    0x1F7F8 % 0x1000 < 0x800 ∧ wMBX + 0x30 ∈ [wLLC, wPEL + 0x30, wPEL + 0x38, wSEC + 0x40, wSEC + 0x48, wSEC + 0x50, wMBX + 0x18, wMBX + 0x30] ∧
    accessOk (0x100000 + (wMBX + 0x30) + 4) 4 = true := by decide

/-- A half of MBX_CKBASE is written and the other half stays (R16). -/
theorem test_register_half :
    (after (.registerWrite (.bar 0x170034) 4 0x11) (serving0.setReg (wMBX + 0x30) 0x2200000040)).reg (wMBX + 0x30) = 0x1100000040 := by decide

theorem witness_ConfigurationSpace :
    State.reset.linkUp = true ∧ ({ State.reset with pins := { Pins.reset with perstHigh := false } } : State).linkUp = false ∧
    State.reset.hostServed = false ∧ (41 : W64).toNat = 41 ∧ 41 < (42 : W64).toNat := by decide

/-- The host sets the size of BAR2 to 2^41 bytes and has the BARs served (R374, R377). -/
theorem test_configuration :
    let s := after (.registerWrite (.cfg .command) 4 2) (after (.registerWrite (.cfg .barSize) 4 41) State.reset)
    s.ctl.bar2 = 41 ∧ s.hostServed = true ∧ (after (.rcRead (.cfg .revision) 1 0) s).ctl.hostData = [0] := by decide

theorem witness_FatalStateStops : serving0.firmwareRuns = true ∧ serving0.fault.fatal = false ∧ serving0.ctl.stalled = false := by decide

theorem witness_MonitoringAnswers :
    serving0.firmwareRuns = true ∧ (serving0.reading 1).isSome = true ∧ serving0.reading 8 = none ∧
    ({ serving0.fault with async := true, shown := true } : FaultLog).shown = true ∧ serving0.fault.shown = false ∧
    (recovering ⟨0x51, 0, 0, [], 0⟩).inRecovery = true ∧ (recovering ⟨0x51, 0, 0, [], 0⟩).firmwareRuns = false ∧
    State.reset.pins.clocks = true ∧ State.reset.pins.i3cDyn = none := by decide

theorem witness_UpdateGoesThroughStages :
    serving0.updates = true ∧ serving0.sec.upd = .idle ∧ ourComponent ⟨0x000A, 0x0960⟩ = true ∧ 50331648 ≤ imageTop ∧
    State.reset.imageFault ≠ 0 ∧ (recovering ⟨0x51, 0, 0, [], 0⟩).updates = true ∧ serving0.inRecovery = false := by
  refine ⟨by decide, by decide, by decide, by decide, by decide, by decide, by decide⟩

theorem witness_SpdmAnswers :
    serving0.firmwareRuns = true ∧ serving0.signs = true ∧ State.reset.signs = false ∧
    ({ serving0 with sec := { serving0.sec with flash := { serving0.sec.flash with chain := some [1] } } } : State).slotChain = some [1] ∧
    (serving0.setSpdm .mctp .negotiated).spdm .mctp = .negotiated ∧ Transport.mctp ≠ Transport.mailbox := by decide

theorem witness_BootAndResets :
    State.reset.pins.tripped = false ∧ State.reset.running = true ∧ State.reset.linkUp = true ∧ State.reset.sec.stage = 0 ∧
    imaged.imageFault = 0 ∧ State.reset.imageFault ≠ 0 ∧
    ({ State.reset with sec := { State.reset.sec with stage := 2 } } : State).sec.stage = 2 ∧ State.reset.pel.homeWait = [] ∧
    ({ State.reset.pins with tripped := true, clocks := false, perstHigh := false } : Pins).tripped = true :=
  ⟨by decide, by decide, by decide, by decide, test_image_accepted, by decide, by decide, by decide⟩

/-- 105 °C and 100 °C in 1/64 °C; a mean above the limit; a pending level below the current one. -/
theorem witness_GovernorSamples :
    State.reset.pins.clocks = true ∧ 105 * 64 = 6720 ∧ 100 * 64 = 6400 ∧ State.reset.regF (wMBX + 0x100) 11 0 * 1 < 3001 ∧
    ({ State.reset.pwr with pendingLevel := 35 } : Power).falling = true ∧ State.reset.pwr.falling = false := by decide

/-- One step of level for each 60 W above the limit, begun or whole (R494). -/
theorem test_governor : (after (.governorSample 3061) State.reset).pwr.pendingLevel = 34 ∧
    (after (.governorSample 3060) State.reset).pwr.pendingLevel = 35 := by decide

theorem witness_TestPortInstructions : State.reset.pins.pwrgood = true ∧ ({ Pins.reset with pwrgood := false } : Pins).pwrgood = false := by decide

/-- A running core with a tile and a store meets the invariants, and its step does not stop. -/
theorem witness_Invariants : storing.mem.wf = true ∧ (∃ t, step { storing with pending := [.storeDrain 0 0 .none] } = .next t) ∧
    State.reset.mem.wf = true := ⟨by decide, ⟨_, rfl⟩, by decide⟩

theorem witness_CoresStayLegal : CoresLegal State.reset := by
  intro n
  refine ⟨⟨show (0 : W64).toNat % 4 = 0 by decide, fun k => ?_⟩, fun o h => by cases h⟩
  exact show Tile.reset.nRows ≤ 64 ∧ Tile.reset.rowB ≤ 256 by decide

/-! ### Lands (the examples and counts of R472 and R473) -/

theorem test_land_examples :
    landSignal 3 54 = .pel 0 7 true false ∧ landSignal 50 21 = .rail (.cmp 0) ∧ landSignal 90 3 = .line "SENSE_CMP0_P" := by
  decide +kernel

theorem test_land_counts :
    landCount (· == .vss) = 5068 ∧ landCount (· == .rail .ser) = 144 ∧ landCount (· == .reserved) = 22 := by decide +kernel

end Sys2Proof.Tests
end

/-! SUPPORT. What counting, translation and an L1 hit do, and the scalar loads that rest on them (R87, R250, R256, R502). -/

namespace Sys2Proof.Machine

-- One declaration at a time: the check bounds the memory of the whole text, and each further thread takes a stack of it.
set_option Elab.async false

/-! ### Widened numbers (R42) -/

theorem widenLf48_of_lt (v : Nat) (h : v < 2 ^ 48) : widenLf48 v = v <<< 16 := by
  rw [widenLf48, Nat.mod_eq_of_lt h]

/-! ### Registers that count events (R502, R503) -/

/-- `b` is `a` with some event counters moved on. -/
def Arch.Counted (a b : Arch) : Prop := ∃ creg, b = { a with creg := creg } ∧ ∀ c, ¬ isCounter c → b.cr c = a.cr c

theorem Arch.Counted.refl (a : Arch) : a.Counted a := ⟨_, rfl, fun _ _ => rfl⟩

theorem Arch.Counted.trans {a b c : Arch} (h : a.Counted b) (k : b.Counted c) : a.Counted c := by
  obtain ⟨_, rfl, h⟩ := h
  obtain ⟨_, rfl, k⟩ := k
  exact ⟨_, rfl, fun r hr => (k r hr).trans (h r hr)⟩

theorem Arch.counted_setCr (a : Arch) (n : Nat) (v : W64) (h : isCounter n) : a.Counted (a.setCr n v) :=
  ⟨_, rfl, fun c hc => a.cr_setCr_other n c v fun e => hc (e ▸ h)⟩

/-- A core whose event counters alone have moved on. -/
def Core.Counted (c d : Core) : Prop := ∃ a, c.arch.Counted a ∧ d = { c with arch := a }

theorem Core.counted_countInst (c : Core) : c.Counted c.countInst := by
  obtain ⟨v, h | h⟩ := c.countInst_eq
  · exact ⟨_, .refl _, h⟩
  · exact ⟨_, c.arch.counted_setCr 0x521 v (.inr rfl), h⟩

theorem Core.Counted.bumpCnt {c d : Core} (h : c.Counted d) (n k : Nat) (hn : n < 8) : c.Counted (d.bumpCnt n k) := by
  obtain ⟨a, ha, rfl⟩ := h
  exact ⟨_, ha.trans (a.counted_setCr _ _ (.inl ⟨by omega, by omega⟩)), rfl⟩

/-- Counting events of a core moves its counters on and nothing else (R507). -/
theorem Core.counted_count (c : Core) (code k : Nat) : c.Counted (c.count code k) := by
  unfold Core.count
  split
  · exact ⟨_, .refl _, rfl⟩
  · have key : ∀ l : List Nat, (∀ n ∈ l, n < 8) → ∀ d, c.Counted d → c.Counted (l.foldl (fun (c : Core) n =>
        let sel := (c.cr (0x508 + n)).toNat
        if sel % 256 = code ∧ (sel >>> 20).testBit (lvlBit c.pl) then c.bumpCnt n k else c) d) := by
      intro l
      induction l with
      | nil => exact fun _ _ hd => hd
      | cons n l ih =>
        intro hl d hd
        refine ih (fun m hm => hl m (List.mem_cons_of_mem _ hm)) _ ?_
        dsimp only
        split
        · exact hd.bumpCnt n k (hl n List.mem_cons_self)
        · exact hd
    exact key _ (fun n hn => List.mem_range.mp hn) c ⟨_, .refl _, rfl⟩

/-- The counters are outside every frame. -/
theorem Arch.Counted.regsKept {a b : Arch} (h : a.Counted b) (p : RegSet) : RegsKept a b p := by
  obtain ⟨_, rfl, h⟩ := h
  exact ⟨fun _ _ => rfl, fun _ _ => rfl, fun _ _ => rfl, fun _ _ => rfl, fun c _ hc => h c hc, fun _ _ => rfl, fun _ _ => rfl⟩

theorem RegsKept.trans {a b c : Arch} {p : RegSet} (h : RegsKept a b p) (k : RegsKept b c p) : RegsKept a c p :=
  ⟨fun r hr => (k.g r hr).trans (h.g r hr), fun r hr => (k.f r hr).trans (h.f r hr), fun r hr => (k.v r hr).trans (h.v r hr),
   fun r hr => (k.k r hr).trans (h.k r hr), fun r hr hc => (k.creg r hr hc).trans (h.creg r hr hc),
   fun r hr => (k.rows r hr).trans (h.rows r hr), fun r hr => (k.tiles r hr).trans (h.tiles r hr)⟩

/-- So is the pc. -/
theorem RegsKept.withPc (a : Arch) (pc : W64) (p : RegSet) : RegsKept a { a with pc := pc } p :=
  ⟨fun _ _ => rfl, fun _ _ => rfl, fun _ _ => rfl, fun _ _ => rfl, fun _ _ _ => rfl, fun _ _ => rfl, fun _ _ => rfl⟩

/-! ### Writes of a register -/

theorem Arch.setG_eq (a : Arch) (d : Nat) (v : W64) : a.setG d v = { a with g := if d = 0 then a.g else Tab.set 0 a.g d v } := by
  unfold Arch.setG
  split <;> rfl

theorem Arch.rg_setG (a : Arch) (d r : Nat) (v : W64) :
    (a.setG d v).rg r = if r = 0 then 0 else if r = d then v else a.rg r := by
  unfold Arch.rg
  rw [Arch.setG_eq]
  by_cases hr : r = 0
  · rw [if_pos hr, if_pos hr]
  · rw [if_neg hr, if_neg hr, if_neg hr]
    by_cases hd : d = 0
    · rw [if_pos hd, if_neg (hd ▸ hr)]
    · rw [if_neg hd, Tab.get_set]

theorem Arch.rg_setG_self (a : Arch) (d : Nat) (v : W64) : (a.setG d v).rg d = if d = 0 then 0 else v := by
  rw [Arch.rg_setG, if_pos rfl]

theorem Arch.rf_setF (a : Arch) (d r : Nat) (v : W64) : (a.setF d v).rf r = if r = d then v else a.rf r :=
  Tab.get_set 0 a.f d r v

theorem Arch.setG_pc (a : Arch) (d : Nat) (v : W64) : (a.setG d v).pc = a.pc := by
  rw [Arch.setG_eq]

/-- A write of g[d] leaves every other register; g0 reads as zero before and after it. -/
theorem Arch.regsKept_setG (a : Arch) (d : Nat) (v : W64) : RegsKept a (a.setG d v) { g := [d] } := by
  have g : ∀ r, r ∉ [d] → (a.setG d v).rg r = a.rg r := by
    intro r hr
    rw [Arch.rg_setG, if_neg (List.ne_of_not_mem_cons hr)]
    split
    · next h => exact h ▸ rfl
    · rfl
  rw [Arch.setG_eq] at g ⊢
  exact ⟨g, fun _ _ => rfl, fun _ _ => rfl, fun _ _ => rfl, fun _ _ _ => rfl, fun _ _ => rfl, fun _ _ => rfl⟩

theorem Arch.regsKept_setF (a : Arch) (d : Nat) (v : W64) : RegsKept a (a.setF d v) { f := [d] } :=
  ⟨fun _ _ => rfl, fun r hr => (a.rf_setF d r v).trans (if_neg (List.ne_of_not_mem_cons hr)), fun _ _ => rfl, fun _ _ => rfl,
    fun _ _ _ => rfl, fun _ _ => rfl, fun _ _ => rfl⟩

/-! ### How an instruction of registers ends -/

theorem OnlyCore.updCore {s t : State} {n : Nat} (h : OnlyCore s t n) (f : Core → Core) : OnlyCore s (t.updCore n f) n := by
  obtain ⟨e, others⟩ := h
  refine ⟨?_, fun m hm => (State.core_updCore_other _ _ _ _ hm).trans (others m hm)⟩
  rw [e]
  rfl

/-- The free value drawn before a body is no change. -/
theorem OnlyCore.of_draw {s t : State} {n : Nat} (h : OnlyCore s.draw t n) : OnlyCore s t n := by
  obtain ⟨e, others⟩ := h
  refine ⟨?_, others⟩
  rw [e]
  rfl

/-- A body that has changed registers of its core only retires; the registers then stand as the body left them, but for
the pc and the counters. -/
theorem retires_of_registers {s s1 : State} {n len : Nat} (h : Issues s n len) (u : Uses) (a : Arch) (only : OnlyCore s s1 n)
    (core : s1.core n = { s.core n with arch := a }) (pc : a.pc = (s.core n).arch.pc) :
    Retires s (finishInsn s n len u (.ok s1)) n (s.pcAfter n len) ∧
    ({ a with pc := s.pcAfter n len } : Arch).Counted ((finishInsn s n len u (.ok s1)).core n).arch := by
  have hp : (s.core n).parity = [] := h.parity
  have ht : (s.core n).tops = [] := h.noTops
  have finish : finishInsn s n len u (.ok s1) = s1.updCore n fun c =>
      ({ c with arch := { c.arch with pc := c.arch.pc + BitVec.ofNat 64 len } } : Core).complete (s.core n).nextTop u.writes := rfl
  have after : (finishInsn s n len u (.ok s1)).core n =
      ({ s.core n with arch := { a with pc := s.pcAfter n len }, wait := .none, remote := [] } : Core).countInst := by
    simp only [finish, State.core_updCore_self, core, Core.complete, hp, ht, pc]
    rfl
  obtain ⟨b, hb, e⟩ := Core.counted_countInst { s.core n with arch := { a with pc := s.pcAfter n len }, wait := .none, remote := [] }
  rw [e] at after
  refine ⟨⟨by rw [finish]; exact only.updCore _, ?_, ?_⟩, ?_⟩
  · rw [after]
  · rw [after]
    obtain ⟨_, rfl, -⟩ := hb
    rfl
  · rw [after]
    exact hb

/-! ### A span of one sector, without translation (R250) -/

theorem State.translate_off (s : State) (n : Nat) (use : Use) (pl va : Nat)
    (h : pl = 3 ∨ ((s.core n).cr nPTB).toNat.testBit 0 = false) : s.translate n use pl va = (s, .ok va 0 false) := by
  unfold State.translate
  rcases h with h | h <;> simp [h]

theorem cutAt_succ (k n a len : Nat) : cutAt k (n + 1) a len =
    if len = 0 then [] else (a, min len (k - a % k)) ::
      cutAt k n ((a + min len (k - a % k)) % 2 ^ 64) (len - min len (k - a % k)) := rfl

theorem cutAt_empty (k n a : Nat) : cutAt k n a 0 = [] := by
  cases n with
  | zero => rfl
  | succ n => rw [cutAt_succ, if_pos rfl]

/-- A span that no multiple of `k` cuts stays whole. -/
theorem cutAt_whole (k n a len : Nat) (h0 : 0 < len) (h : a % k + len ≤ k) : cutAt k (n + 1) a len = [(a, len)] := by
  have e : min len (k - a % k) = len := by omega
  rw [cutAt_succ, if_neg (Nat.ne_of_gt h0), e, Nat.sub_self, cutAt_empty]

theorem State.locate_visible (s : State) (use : Use) (pl va pa : Nat) (h : pa + 1 ≤ Config.memTop) :
    s.locate use pl va pa = .inl (.mem pa) := by
  have hv : visible pa 1 = true := by simpa [visible] using h
  simp [State.locate, isGlobal_of_visible pa 1 h, hv]

/-- The one piece of an access within a sector of visible memory. -/
theorem State.span_sector (s : State) (n : Nat) (use : Use) (pl a k : Nat) (h0 : 0 < k) (h : a % 32 + k ≤ 32)
    (hm : a + k ≤ Config.memTop) (hu : pl = 3 ∨ ((s.core n).cr nPTB).toNat.testBit 0 = false) :
    s.span n use pl a k = (s, [⟨a, .mem a, k, 0, false⟩], []) := by
  have page : cutAt 4096 (k / 4096 + 2) a k = [(a, k)] := cutAt_whole _ _ _ _ h0 (by omega)
  have sector : cutAt 32 (k / 32 + 2) a k = [(a, k)] := cutAt_whole _ _ _ _ h0 h
  have untranslated := s.translate_off n use pl a hu
  have located := s.locate_visible use pl a a (by omega)
  simp [State.span, page, sector, untranslated, located]

/-! ### A hit in the L1 (R256, R275) -/

/-- The state after a hit of core `n` on a line of its L1. -/
def State.hit (s : State) (n l : Nat) : State := (s.countCore n 0x50 1).updCore n fun c => c.warmL1 l

/-- A hit on a line in use is counted by its core and changes nothing else of it. -/
theorem State.core_hit (s : State) (n l : Nat) (h : ((s.core n).l1Line l).cold = false) :
    (s.hit n l).core n = (s.core n).count 0x50 1 := by
  obtain ⟨a, -, e⟩ := (s.core n).counted_count 0x50 1
  have warm : (((s.core n).count 0x50 1).l1Line l).cold = false := by rw [e]; exact h
  show ((s.updCore n fun c => c.count 0x50 1).updCore n fun c => c.warmL1 l).core n = _
  rw [State.core_updCore_self, State.core_updCore_self, Core.warmL1, warm]
  rfl

theorem State.onlyCore_hit (s : State) (n l : Nat) : OnlyCore s (s.hit n l) n :=
  (OnlyCore.updCore (t := s) ⟨rfl, fun _ _ => rfl⟩ _).updCore _

theorem State.mem_hit (s : State) (n l : Nat) : (s.hit n l).mem = s.mem :=
  ((s.countCore n 0x50 1).updCore_mem n _).trans (s.updCore_mem n _)

theorem State.byte_hit (s : State) (n l a : Nat) : (s.hit n l).byte a = s.byte a :=
  congrArg (fun m : Mem => Tab.get 0 m.bytes a) (s.mem_hit n l)

theorem State.poisoned_hit (s : State) (n l sec : Nat) : (s.hit n l).poisoned sec = s.poisoned sec := by
  rw [State.poisoned, State.frameRetired, State.llcLine, s.mem_hit]
  rfl

/-- A sector in the mask of valid ones leaves nothing to miss. -/
theorem sector_present (v : BitVec 4) (i : Nat) (hi : i < 4) (h : v &&& BitVec.ofNat 4 (2 ^ i) ≠ 0) :
    BitVec.ofNat 4 (2 ^ i) &&& ~~~v = 0 := by
  have each : ∀ (i : Fin 4) (v : BitVec 4), v &&& BitVec.ofNat 4 (2 ^ i.val) ≠ 0 → BitVec.ofNat 4 (2 ^ i.val) &&& ~~~v = 0 := by
    decide
  exact each ⟨i, hi⟩ v h

/-- A demand load of a sector that the L1 holds, where no confirmed stream goes on with it, is a hit. -/
theorem State.touch_inL1 (s : State) (n pl a k : Nat) (watch : Bool) (h : InL1 s n a) :
    s.touch n pl ⟨a, .mem a, k, 0, false⟩ a (BitVec.ofNat 4 (2 ^ (a / 32 % 4))) watch = some (s.hit n (a / 128)) := by
  obtain ⟨valid, cold, streams⟩ := h
  have present := sector_present _ _ (Nat.mod_lt _ (by decide)) valid
  obtain ⟨b, -, e⟩ := (s.core n).counted_count 0x50 1
  have none_expected : ((s.hit n (a / 128)).core n).streams.any
      (fun t => decide (t.count ≥ 3) && ((a / 128 : Nat) : Int) - t.last == t.stride) = false := by
    rw [s.core_hit n _ cold, e, List.any_eq_false]
    intro t ht
    simpa using streams t ht
  unfold State.touch
  rw [if_pos present]
  show some (if watch && ((s.hit n (a / 128)).core n).streams.any _ then _ else s.hit n (a / 128)) = _
  rw [none_expected, Bool.and_false]
  rfl

/-! ### What a core without stores sees (R234, R267) -/

theorem State.seeByte_noStores (s : State) (n a : Nat) (hs : (s.core n).sb = [] ∧ (s.core n).heldSt = [])
    (hv : (s.core n).heldVer = none) : s.seeByte n a = (s.byte a, s.poisoned (a / 32) ||
      (((s.core n).l1Line (a / 128)).valid &&& ((s.core n).l1Line (a / 128)).poison).toNat.testBit (a / 32 % 4)) := by
  obtain ⟨sb, held⟩ := hs
  simp [State.seeByte, State.seeCommitted, hv, Core.buffered, sb, held]

theorem Core.Counted.heldVer {c d : Core} (h : c.Counted d) : d.heldVer = c.heldVer := by
  obtain ⟨a, ha, rfl⟩ := h
  obtain ⟨-, -, h⟩ := ha
  have status : a.cr nSTATUS = c.arch.cr nSTATUS := h nSTATUS (by unfold isCounter; decide)
  simp only [Core.heldVer, Core.spec, Core.pl, Core.cr, status]
  rfl

/-! ### A load of one sector that the L1 holds -/

/-- After the hit the core sees the bytes of memory, none of them poisoned. -/
theorem State.seePiece_hit (s : State) (n a k : Nat) (hr : Readable s n a k) (cold : ((s.core n).l1Line (a / 128)).cold = false) :
    (s.hit n (a / 128)).seePiece n ⟨a, .mem a, k, 0, false⟩ = (s.bytesAt a k).map fun b => (b, false) := by
  have counted := (s.core n).counted_count 0x50 1
  have core := s.core_hit n _ cold
  have seen : ∀ i, i < k → (s.hit n (a / 128)).seeByte n (a + i) = (s.byte (a + i), false) := by
    intro i hi
    have sector := hr.sector
    have e : (a + i) / 32 = a / 32 := by omega
    have e' : (a + i) / 128 = a / 128 := by omega
    have committed : ((s.hit n (a / 128)).core n).heldVer = none := by rw [core, counted.heldVer, hr.committed]
    obtain ⟨b, -, eb⟩ := counted
    rw [eb] at core
    rw [State.seeByte_noStores _ n _ (by rw [core]; exact hr.noStores) committed, e, e', core]
    rw [State.byte_hit, State.poisoned_hit, hr.good, Bool.false_or]
    exact congrArg (Prod.mk _) hr.goodCopy
  exact (List.map_congr_left fun i hi => seen i (List.mem_range.mp hi)).trans
    (List.map_map (f := fun i => s.byte (a + i)) (g := fun b => ((b, false) : PByte))).symm

theorem State.touchAll_inL1 (s : State) (n pl a k : Nat) (h : InL1 s n a) :
    s.touchAll n pl LdHow.scalar [⟨a, .mem a, k, 0, false⟩] = (s.hit n (a / 128), true) := by
  have touched := s.touch_inL1 n pl a k true h
  simp only [State.touchAll, lineParts, State.missWithin, LdHow.scalar, List.foldl_cons, List.foldl_nil, List.reverse_singleton,
    Bool.not_true, Bool.false_eq_true, if_false, touched]

/-- A load of bytes of one sector that the L1 holds gives the bytes of memory. -/
theorem State.load_hit (s : State) (n pl a k : Nat) (hr : Readable s n a k) (hl : InL1 s n a) (ht : (s.core n).tops = [])
    (hu : pl = 3 ∨ ((s.core n).cr nPTB).toNat.testBit 0 = false) :
    s.load n pl [] LdHow.scalar a k = (.ok (s.hit n (a / 128)) (s.bytesAt a k), []) := by
  have good : (s.bytesAt a k).map (Prod.fst ∘ fun b => ((b, false) : PByte)) = s.bytesAt a k := List.map_id _
  have span := s.span_sector n .load pl a k hr.some hr.sector hr.inMemory hu
  have touched := s.touchAll_inL1 n pl a k hl
  obtain ⟨-, cold, -⟩ := hl
  have seen := s.seePiece_hit n a k hr cold
  simp [State.load, span, firstCause, ht, Piece.isAway, farParts, touched, seen, good]

/-- An instruction that loads `k` such bytes retires; its registers stand as `put` leaves them with the number, but for the
pc and the counters. -/
theorem loadInto_hit {s : State} {n : Nat} {F : Form} (h : Issues s n F.len) (len : F.len = 4 ∨ F.len = 8) (bad : F.bad = false)
    (writes : List Nat) (k : Nat) (put : Arch → Nat → Arch) (hr : Readable s n (memAddr s n F) k) (hl : InL1 s n (memAddr s n F))
    (pc : ∀ a v, (put a v).pc = a.pc) :
    ∃ a, (s.core n).arch.Counted a ∧ Retires s (loadInto ⟨n, []⟩ F writes k put s) n (s.pcAfter n F.len) ∧
      ({ put a (s.num (memAddr s n F) k) with pc := s.pcAfter n F.len } : Arch).Counted
        ((loadInto ⟨n, []⟩ F writes k put s).core n).arch := by
  obtain ⟨valid, cold, streams⟩ := hl
  have hr' : Readable s.draw n (memAddr s n F) k :=
    ⟨hr.some, hr.sector, hr.inMemory, hr.good, hr.goodCopy, hr.noStores, hr.committed⟩
  have load := s.draw.load_hit n (s.core n).pl (memAddr s n F) k hr' ⟨valid, cold, streams⟩ h.noTops h.untranslated
  obtain ⟨a, ha, core⟩ := (s.core n).counted_count 0x50 1
  have hit : (s.draw.hit n (memAddr s n F / 128)).core n = { s.core n with arch := a } := (s.draw.core_hit n _ cold).trans core
  refine ⟨a, ha, ?_⟩
  have run : loadInto ⟨n, []⟩ F writes k put s = finishInsn s n F.len ⟨codeG F.a, writes⟩
      (.ok ((s.draw.hit n (memAddr s n F / 128)).updCore n fun c => { c with arch := put c.arch (s.num (memAddr s n F) k) })) := by
    rw [loadInto, runForm_issues F h len, bad]
    have addr : memAddr s.draw n F = memAddr s n F := rfl
    simp only [Bool.false_eq_true, if_false, State.draw_core, addr, load]
    rfl
  rw [run]
  refine retires_of_registers h _ _ ((s.draw.onlyCore_hit n _).of_draw.updCore _) ?_ ?_
  · rw [State.core_updCore_self, hit]
  · rw [pc]
    obtain ⟨_, rfl, -⟩ := ha
    rfl

/-! ### The loads (R42, R87, R515) -/

theorem formIL_len (maj : Nat) (f : IL) : (formIL maj f).len = 4 ∨ (formIL maj f).len = 8 := by
  cases f with
  | short f => exact .inl rfl
  | long f => exact .inr rfl

/-- A core can begin a load of `k` bytes of one readable sector that its L1 holds. -/
def LoadsHit (s : State) (n : Nat) (F : Form) (k : Nat) : Prop :=
  F.bad = false ∧ Issues s n F.len ∧ Readable s n (memAddr s n F) k ∧ InL1 s n (memAddr s n F)

theorem ofBytes_lt (bs : List Byte) : ofBytes bs < 2 ^ (8 * bs.length) := by
  induction bs with
  | nil => decide
  | cons b t ih =>
    have hb : b.toNat < 256 := b.isLt
    have e : 2 ^ (8 * (b :: t).length) = 256 * 2 ^ (8 * t.length) := by
      rw [List.length_cons, Nat.mul_add, Nat.pow_add]
      omega
    rw [e, ofBytes]
    omega

theorem State.num_lt (s : State) (a k : Nat) : s.num a k < 2 ^ (8 * k) := by
  have length : (s.bytesAt a k).length = k := List.length_map _ |>.trans List.length_range
  have bound := ofBytes_lt (s.bytesAt a k)
  rwa [length] at bound

section
variable {s : State} {n : Nat} {F : Form} {k : Nat}

/-- Such a load whose value goes to g[d]. -/
theorem LoadsHit.toG (h : LoadsHit s n F k) (len : F.len = 4 ∨ F.len = 8) (writes : List Nat) (value : Nat → W64) :
    let t := loadInto ⟨n, []⟩ F writes k (fun r v => r.setG F.d (value v)) s
    Retires s t n (s.pcAfter n F.len) ∧ RegsKept (s.core n).arch (t.core n).arch { g := [F.d] } ∧
      (t.core n).arch.rg F.d = if F.d = 0 then 0 else value (s.num (memAddr s n F) k) := by
  obtain ⟨bad, issues, readable, inL1⟩ := h
  obtain ⟨a, before, retires, after⟩ := loadInto_hit issues len bad writes k (fun r v => r.setG F.d (value v))
    readable inL1 fun a v => a.setG_pc F.d (value v)
  refine ⟨retires, ?_, ?_⟩
  · exact (before.regsKept _).trans ((a.regsKept_setG F.d _).trans ((RegsKept.withPc _ _ _).trans (after.regsKept _)))
  · obtain ⟨_, e, -⟩ := after
    rw [e]
    exact a.rg_setG_self F.d _

/-- Such a load whose value goes to f[d]. -/
theorem LoadsHit.toF (h : LoadsHit s n F k) (len : F.len = 4 ∨ F.len = 8) (writes : List Nat) (value : Nat → W64) :
    let t := loadInto ⟨n, []⟩ F writes k (fun r v => r.setF F.d (value v)) s
    Retires s t n (s.pcAfter n F.len) ∧ RegsKept (s.core n).arch (t.core n).arch { f := [F.d] } ∧
      (t.core n).arch.rf F.d = value (s.num (memAddr s n F) k) := by
  obtain ⟨bad, issues, readable, inL1⟩ := h
  obtain ⟨a, before, retires, after⟩ := loadInto_hit issues len bad writes k (fun r v => r.setF F.d (value v))
    readable inL1 fun _ _ => rfl
  refine ⟨retires, ?_, ?_⟩
  · exact (before.regsKept _).trans ((a.regsKept_setF F.d _).trans ((RegsKept.withPc _ _ _).trans (after.regsKept _)))
  · obtain ⟨_, e, -⟩ := after
    rw [e]
    exact (a.rf_setF F.d F.d _).trans (if_pos rfl)

end

/-- Settles O6: a load of one sector that the L1 holds is a hit, so it reads the bytes of memory and changes the
destination, the pc and event counters alone. -/
theorem loadsReadMemory : Obligations.LoadsReadMemory := by
  unfold Obligations.LoadsReadMemory
  rintro s n x rfl ok toF
  refine ⟨?scalar, ?fld, ?flw, ?fll⟩
  case scalar =>
    rintro op f F rfl hit
    exact ⟨_, rfl, LoadsHit.toG hit (formIL_len _ f) _ _⟩
  case fld =>
    rintro f F rfl hit
    exact ⟨_, rfl, LoadsHit.toF hit (formIL_len _ f) _ _⟩
  case flw =>
    rintro f F rfl hit
    exact ⟨_, rfl, LoadsHit.toF hit (formIL_len _ f) _ _⟩
  case fll =>
    rintro f F rfl hit
    have widened : widenLf48 (s.num (memAddr s n (formIL 0x16 f)) 6) = s.num (memAddr s n (formIL 0x16 f)) 6 <<< 16 :=
      widenLf48_of_lt _ (s.num_lt _ 6)
    obtain ⟨retires, kept, value⟩ := LoadsHit.toF hit (formIL_len _ f) (codeF (formIL 0x16 f).d)
      fun v => BitVec.ofNat 64 (widenLf48 v)
    exact ⟨_, rfl, retires, kept, value.trans (congrArg (BitVec.ofNat 64) widened)⟩

/-! SUPPORT. A read of no bytes through BAR2 (R375, R414), which refutes what O49 says of EP. -/

/-! ### Fills of a slice retire no frame and bring none back (R260, R309) -/

theorem State.evictLine_retired (s : State) (l : Nat) : (s.evictLine l).mem.retired = s.mem.retired := by
  unfold State.evictLine
  dsimp only
  split
  · rfl
  · rw [State.countDev_mem]

theorem State.makeWayBut_retired (s : State) (l : Nat) (no : Option Nat) :
    (s.makeWayBut l no).1.mem.retired = s.mem.retired := by
  unfold State.makeWayBut
  dsimp only
  split
  · rfl
  · refine foldl_keeps (fun s : State => s.mem.retired) _ _ _ fun s p => ?_
    split
    · exact s.evictLine_retired p.1
    · split <;> rfl

theorem State.slotFor_retired (s : State) (l : Nat) (pinned : Bool) : (s.slotFor l pinned).1.mem.retired = s.mem.retired := by
  unfold State.slotFor
  split
  · rfl
  · exact s.makeWayBut_retired l none

theorem State.slotAge_retired (s : State) (l : Nat) : (s.slotAge l).mem.retired = s.mem.retired := by
  unfold State.slotAge
  exact foldl_keeps (fun s : State => s.mem.retired) _ _ _ fun _ _ => rfl

/-- Without a pin request. -/
theorem State.llcFill_retired (s : State) (l : Nat) (mask dirty : BitVec 4) (hint : Nat) :
    (s.llcFill l mask dirty hint false).mem.retired = s.mem.retired := by
  unfold State.llcFill
  simp only [Bool.false_and, Bool.false_eq_true, if_false]
  split
  · rw [State.slotAge_retired]
    rfl
  · rw [State.slotAge_retired]
    exact State.slotFor_retired _ l false

theorem State.sliceRoom_noMisses (s : State) (l : Nat) (h : s.mem.miss = []) : s.sliceRoom l = s := by
  simp [State.sliceRoom, State.sliceFull, h]

/-- A retired frame is not read from its stack (R309). -/
theorem State.stackRead_retired (s : State) (l : Nat) (mask : BitVec 4) (h : s.frameRetired (l / 32) = true) :
    s.stackRead l mask = s := by
  simp [State.stackRead, h]

/-- A read of a line of a retired frame leaves the frame retired. -/
theorem State.sliceRead_retired (s : State) (l : Nat) (mask : BitVec 4) (hm : s.mem.miss = [])
    (h : s.frameRetired (l / 32) = true) : (s.sliceRead l mask).frameRetired (l / 32) = true := by
  have counted : ∀ code, (s.countDev code (s.home l) 1).frameRetired (l / 32) = true := by
    intro code
    rwa [State.frameRetired, State.countDev_mem]
  rw [State.sliceRead, State.readFill, s.sliceRoom_noMisses l hm, ite_self]
  rw [State.stackRead_retired _ l mask (counted _), State.frameRetired, State.llcFill_retired]
  exact counted _

/-! ### Where a read carries EP (R414) -/

theorem exec_bar2Read (off size : Nat) (s : State) : exec (.bar2Read off size) s = execBar2Read off size s := rfl

/-- An answer with EP is logged, and shows EP all the same. -/
theorem State.hostEp_answer (s : State) (data : List Byte) (ep : Bool) :
    (if ep = true then
        { s.hostAnswer data ep false with ctl := { (s.hostAnswer data ep false).ctl with aer := true } }
      else s.hostAnswer data ep false).ctl.hostEp = ep := by
  cases ep <;> rfl

/-- A BAR2 read that is served carries EP where a sector of the lines that it reads came poisoned. -/
theorem execBar2Read_ep {s t : State} {off size : Nat} (hs : s.hostServed = true) (hm : s.memServed = true)
    (hv : visible (s.bar2Addr off) size = true) (hc : s.mem.copying = []) (run : execBar2Read off size s = .next t) :
    t.ctl.hostEp = (s.readSpan (spanLines (s.bar2Addr off) size)).2 := by
  have free : ((spanLines (s.bar2Addr off) size).any fun p => s.lineCopying p.1) = false := by
    simp [State.lineCopying, hc]
  simp only [execBar2Read, hs, hm, hv, free, Bool.not_true, Bool.or_self, Bool.false_eq_true, if_false] at run
  rw [← Host.Outcome.next.inj run]
  exact State.hostEp_answer _ _ _

/-- Of one line. -/
theorem State.readSpan_line (s : State) (l : Nat) (mask : BitVec 4) :
    (s.readSpan [(l, mask)]).2 = (sectors mask).any fun i => (s.sliceRead l mask).poisoned (4 * l + i) := by
  simp only [State.readSpan, List.foldl_cons, List.foldl_nil, Bool.false_or]

/-! ### The counterexample -/

/-- A configured part whose memory is served, and whose first frame is retired. -/
def firstFrameRetired : State :=
  { State.reset with
    mem := { Mem.reset with served := true, retired := [0] }
    ctl := { Control.reset with configured := true }
    sec := { Security.reset with stage := 3 } }

/-- A read of no bytes at offset 1 reads the sector that offset 1 lies in, whose frame is retired. -/
theorem readSpan_firstFrameRetired :
    (firstFrameRetired.readSpan (spanLines (firstFrameRetired.bar2Addr 1) 0)).2 = true := by
  have lines : spanLines (firstFrameRetired.bar2Addr 1) 0 = [(0, 1)] := by decide
  have sector : sectors 1 = [0] := by decide
  have retired : (firstFrameRetired.sliceRead 0 1).frameRetired 0 = true :=
    firstFrameRetired.sliceRead_retired 0 1 rfl rfl
  rw [lines, State.readSpan_line, sector, List.any_cons, State.poisoned, Nat.mul_zero, Nat.zero_div, retired, Bool.or_true,
    Bool.true_or, Bool.true_or]

/-- Refutes O49: in a state whose first frame is retired, a BAR2 read of no bytes at offset 1 reads the sector there and is
answered with EP, although a span of no bytes holds no poisoned sector. -/
theorem not_hostAccesses : ¬ Obligations.HostAccesses := by
  unfold Obligations.HostAccesses
  rintro ⟨memory, -, -⟩
  obtain ⟨served, -⟩ := memory firstFrameRetired 1 0 []
  obtain ⟨read, -⟩ := served (by decide)
  obtain ⟨t, run, -, -, -, noEp, -⟩ := read (by decide) (by decide) ⟨rfl, rfl⟩
  have ep : t.ctl.hostEp = true := (execBar2Read_ep (by decide) (by decide) (by decide) rfl
    ((exec_bar2Read 1 0 _).symm.trans run)).trans readSpan_firstFrameRetired
  have clean : firstFrameRetired.spanPoisoned (firstFrameRetired.bar2Addr 1) 0 = false := rfl
  exact Bool.false_ne_true ((noEp clean).symm.trans ep)

end Sys2Proof.Machine
